-- ==== Sys2Proof/Word.lean ====
section
/-! DEFINITION. The byte and word types of the block, and their plainest operators (spec 00_scope.md R9 to R11). -/

namespace Sys2Proof

/-- R9: a byte is an unsigned 8-bit value. -/
abbrev Byte := BitVec 8

/-- R9: a word is an unsigned 32-bit value; R10's `+`, `and`, `or`, `xor`, `not` and `shr` are the core operators on it. -/
abbrev Word := BitVec 32

/-- R10: `rotr(a, n)`, for `n` in 1..31. -/
def rotr (a : Word) (n : Nat) : Word := (a >>> n) ||| (a <<< (32 - n))

/-- R10: `rotl(a, n) = rotr(a, 32 - n)`, for `n` in 1..31. -/
def rotl (a : Word) (n : Nat) : Word := rotr a (32 - n)

/-- R11: the big-endian word of four bytes, the first the most significant. -/
def be32 (b0 b1 b2 b3 : Byte) : Word := b0 ++ b1 ++ b2 ++ b3

/-- R11: the little-endian word of four bytes, the first the least significant. -/
def le32 (b0 b1 b2 b3 : Byte) : Word := b3 ++ b2 ++ b1 ++ b0

/-- Byte `j` of a word, byte 0 the least significant: bits `[8j+7 : 8j]`. -/
def Word.byte (w : Word) (j : Nat) : Byte := w.extractLsb' (8 * j) 8

/-- R11: `be32bytes`, the inverse of `be32`. -/
def be32bytes (w : Word) : List Byte := [Word.byte w 3, Word.byte w 2, Word.byte w 1, Word.byte w 0]

/-- R11: `le32bytes`, the inverse of `le32`. -/
def le32bytes (w : Word) : List Byte := [Word.byte w 0, Word.byte w 1, Word.byte w 2, Word.byte w 3]

end Sys2Proof
end

