-- ==== Sys2Proof/Syntax.lean ====
section
/-! DEFINITION. The 27 commands of the opcode table (30_encoding.md R95), and the one command format C (R90). -/

namespace Sys2Proof

/-- R95: one constructor per row of spec/opcode_table.json; the operands are the row's own fields (R92), every other operand is implicit (R93). -/
inductive Instr where
  | sha256
  | rmd160
  /-- `key` is the KEY flag of `HASH160` (R127). -/
  | hash160 (key : Bool)
  | sha256d
  | checksum4
  | shaInit
  | shaBlock
  | rmdInit
  | rmdBlock
  | b58Enc
  | b58Dec
  | b58chkEnc
  | b58chkDec
  | b32Towords
  | b32Fromwords
  | b32Hrpexp
  | b32Polymod
  | b32Checksum
  /-- `version` is ARG, the witness version, any byte (R92, R185). -/
  | b32Enc (version : Byte)
  | b32Dec
  | scrClear
  | scrPush
  /-- `opcode` is ARG, the byte to append (R92, R215). -/
  | scrOp (opcode : Byte)
  | scrHash
  | scrMulti2
  | xfer
  /-- `byte` is ARG, the byte put in front of IN (R92, R231). -/
  | prepend (byte : Byte)
  deriving DecidableEq, Repr

/-- R90: the fields of a command word in format C, before any check of legality. -/
structure Fields where
  op : Byte
  arg : Byte
  key : Bool
  rsv : BitVec 15
  deriving DecidableEq, Repr

end Sys2Proof
end

