-- ==== Sys2Proof/WellFormed.lean ====
section
/-! DEFINITION. When a command in format C is well formed: the predicate `Legal` of 30_encoding.md R96, one check per line of it. -/

namespace Sys2Proof

/-- R95: the assigned values of OP; every other value is reserved (R97). -/
def assignedOps : List Byte :=
  [0x01, 0x02, 0x03, 0x04, 0x05, 0x08, 0x09, 0x0C, 0x0D] ++
  [0x10, 0x11, 0x12, 0x13] ++
  [0x20, 0x21, 0x22, 0x23, 0x24, 0x28, 0x29] ++
  [0x30, 0x31, 0x32, 0x33, 0x34] ++
  [0x40, 0x41]

/-- R96, first check: OP is in the table of R95. -/
def Fields.opAssigned (f : Fields) : Bool := assignedOps.contains f.op

/-- R96, second check: RSV is 0. -/
def Fields.rsvZero (f : Fields) : Bool := f.rsv == 0

/-- R96, third check: KEY is 1 only on `HASH160`. -/
def Fields.keyAllowed (f : Fields) : Bool := !f.key || f.op == 0x03

/-- R96, fourth check: ARG is not 0 only on `B32_ENC`, `SCR_OP` and `PREPEND`. -/
def Fields.argAllowed (f : Fields) : Bool := f.arg == 0 || [0x28, 0x32, 0x41].contains f.op

/-- R96: `Legal`. -/
def Fields.legal (f : Fields) : Bool := f.opAssigned && f.rsvZero && f.keyAllowed && f.argAllowed

end Sys2Proof
end

