-- ==== Sys2Proof/Decode.lean ====
section
/-! DEFINITION. Decoding a command word, total on every 32-bit word and rejecting by name (30_encoding.md R90 to R97), and encoding. The block
fetches nothing: a command is the data of one `CMD` write (20_memory.md R78), so what is decoded is one word, not a byte stream
(notes/assumptions/8.md). -/

namespace Sys2Proof

/-- R90: the fields of a 32-bit command word: OP in 7:0, ARG in 15:8, KEY in 16, RSV in 31:17. -/
def Fields.ofWord (w : Word) : Fields :=
  { op := w.extractLsb' 0 8, arg := w.extractLsb' 8 8, key := w.getLsbD 16, rsv := w.extractLsb' 17 15 }

/-- R96: why a word is no command, in the order the checks run. -/
inductive Reject where
  /-- OP is not assigned (R97). -/
  | reservedOpcode
  /-- A bit of RSV is 1. -/
  | reservedBits
  /-- KEY is 1 on a command other than `HASH160`. -/
  | keyNotAllowed
  /-- ARG is not 0 on a command without an operand. -/
  | argNotAllowed
  deriving DecidableEq, Repr

/-- R95: the command of an assigned OP, with its operands. -/
def decodeOp (f : Fields) : Option Instr :=
  match f.op.toNat with
  | 0x01 => some .sha256
  | 0x02 => some .rmd160
  | 0x03 => some (.hash160 f.key)
  | 0x04 => some .sha256d
  | 0x05 => some .checksum4
  | 0x08 => some .shaInit
  | 0x09 => some .shaBlock
  | 0x0C => some .rmdInit
  | 0x0D => some .rmdBlock
  | 0x10 => some .b58Enc
  | 0x11 => some .b58Dec
  | 0x12 => some .b58chkEnc
  | 0x13 => some .b58chkDec
  | 0x20 => some .b32Towords
  | 0x21 => some .b32Fromwords
  | 0x22 => some .b32Hrpexp
  | 0x23 => some .b32Polymod
  | 0x24 => some .b32Checksum
  | 0x28 => some (.b32Enc f.arg)
  | 0x29 => some .b32Dec
  | 0x30 => some .scrClear
  | 0x31 => some .scrPush
  | 0x32 => some (.scrOp f.arg)
  | 0x33 => some .scrHash
  | 0x34 => some .scrMulti2
  | 0x40 => some .xfer
  | 0x41 => some (.prepend f.arg)
  | _ => none

/-- R96: the checks of a command word's fields, in order; the first that fails names the rejection. -/
def decodeFields (f : Fields) : Except Reject Instr :=
  match decodeOp f with
  | none => .error .reservedOpcode
  | some i =>
    if f.rsv ≠ 0 then .error .reservedBits
    else if f.key ∧ f.op ≠ 0x03 then .error .keyNotAllowed
    else if f.arg ≠ 0 ∧ f.op ∉ ([0x28, 0x32, 0x41] : List Byte) then .error .argNotAllowed
    else .ok i

/-- R90 to R97: the command a 32-bit word is, or why it is none. -/
def decode (w : Word) : Except Reject Instr := decodeFields (Fields.ofWord w)

/-- R90: the 32-bit command word of some fields. -/
def Fields.toWord (f : Fields) : Word := f.rsv ++ BitVec.ofBool f.key ++ f.arg ++ f.op

/-- R90, R95: the fields of a command. -/
def Instr.fields : Instr → Fields
  | .sha256 => ⟨0x01, 0, false, 0⟩
  | .rmd160 => ⟨0x02, 0, false, 0⟩
  | .hash160 key => ⟨0x03, 0, key, 0⟩
  | .sha256d => ⟨0x04, 0, false, 0⟩
  | .checksum4 => ⟨0x05, 0, false, 0⟩
  | .shaInit => ⟨0x08, 0, false, 0⟩
  | .shaBlock => ⟨0x09, 0, false, 0⟩
  | .rmdInit => ⟨0x0C, 0, false, 0⟩
  | .rmdBlock => ⟨0x0D, 0, false, 0⟩
  | .b58Enc => ⟨0x10, 0, false, 0⟩
  | .b58Dec => ⟨0x11, 0, false, 0⟩
  | .b58chkEnc => ⟨0x12, 0, false, 0⟩
  | .b58chkDec => ⟨0x13, 0, false, 0⟩
  | .b32Towords => ⟨0x20, 0, false, 0⟩
  | .b32Fromwords => ⟨0x21, 0, false, 0⟩
  | .b32Hrpexp => ⟨0x22, 0, false, 0⟩
  | .b32Polymod => ⟨0x23, 0, false, 0⟩
  | .b32Checksum => ⟨0x24, 0, false, 0⟩
  | .b32Enc version => ⟨0x28, version, false, 0⟩
  | .b32Dec => ⟨0x29, 0, false, 0⟩
  | .scrClear => ⟨0x30, 0, false, 0⟩
  | .scrPush => ⟨0x31, 0, false, 0⟩
  | .scrOp opcode => ⟨0x32, opcode, false, 0⟩
  | .scrHash => ⟨0x33, 0, false, 0⟩
  | .scrMulti2 => ⟨0x34, 0, false, 0⟩
  | .xfer => ⟨0x40, 0, false, 0⟩
  | .prepend byte => ⟨0x41, byte, false, 0⟩

/-- R90, R99: the command word of a command. -/
def encode (i : Instr) : Word := i.fields.toWord

/-- The command the decoder reads from an opcode-table word: bit 0 of `w` is bit 0 of the 32-bit command word. Every row has 32 bits, and
no command is longer; a number of more than 32 bits is no command word. -/
def decodeTableWord (nbits w : Nat) : Option Instr :=
  if nbits ≤ 32 ∧ w < 2 ^ 32 then (decode (BitVec.ofNat 32 w)).toOption else none

end Sys2Proof
end

