-- ==== Sys2Proof/Config.lean ====
section
/-! DEFINITION. What the spec fixes for this hardware (00_scope.md R7) and what it leaves open: the two OPEN parameters and the
unspecified values, each an opaque constant no proof can see into. -/

namespace Sys2Proof.Config

open Sys2Proof

/-- R7, R60: bytes in the register window. -/
def window : Nat := 0x1000

/-- R7: bytes in the input buffer IN. -/
def inCap : Nat := 256

/-- R7: bytes in the output buffer OUT. -/
def outCap : Nat := 512

/-- R7: bytes in the human-readable-part buffer HRP. -/
def hrpCap : Nat := 83

/-- R7: bytes in the script buffer SCR. -/
def scrCap : Nat := 256

/-- R7, R211: the longest pushdata the serializer takes. -/
def maxPush : Nat := 75

/-- R7: the byte of OP_CHECKSIG. -/
def opCheckSig : Byte := 0xAC

/-- R7: the byte of OP_BOOLAND. -/
def opBoolAnd : Byte := 0x9A

/-- R21: what `ID` always reads. -/
def idValue : Word := 0x44424331

/-- R21: what `HWVER` always reads. -/
def hwverValue : Word := 0x00010000

/-- R7, U10: the OPEN physical base address of the window, set by the platform. -/
opaque base : Nat

/-- R7, R244, U11: the OPEN `LATENCY` less one, of the command issued at a draw number: any finite number of host steps, and it may
differ from one command to the next (notes/assumptions/3.md). -/
opaque latencyTail : Nat → Nat

/-- R33, U1: the byte drawn, at a draw number, for the window address of a buffer byte that nothing has written since reset
(notes/assumptions/1.md). -/
opaque freeByte : Nat → Nat → Byte

/-- R34, R282, U2: the word a host read of an output-class offset returns while BUSY = 1, at a draw number
(notes/assumptions/2.md). -/
opaque freeWord : Nat → Word

end Sys2Proof.Config
end

