-- ==== Sys2Proof/Machine/Errors.lean ====
section
/-! DEFINITION. The error codes of a command (60_exceptions.md R240). -/

namespace Sys2Proof.Machine

open Sys2Proof

/-- R240: the error codes a command can raise; code 0 (`OK`) is no error and is not among them. -/
inductive ErrCode where
  | invalidKeyLength
  | invalidKeyPrefix
  | checksumMismatch
  | invalidCharacter
  | invalidChecksum
  | invalidCharset
  | invalidHRP
  | invalidWitnessLength
  | invalidInput
  | invalidWitnessVersion
  | invalidPadding
  | lengthRange
  | illegalCommand
  deriving DecidableEq, Repr

/-- R240: the number of an error code, as `STATUS.ERRCODE` reports it. -/
def ErrCode.code : ErrCode → Byte
  | .invalidKeyLength => 1
  | .invalidKeyPrefix => 2
  | .checksumMismatch => 3
  | .invalidCharacter => 4
  | .invalidChecksum => 5
  | .invalidCharset => 6
  | .invalidHRP => 7
  | .invalidWitnessLength => 8
  | .invalidInput => 9
  | .invalidWitnessVersion => 10
  | .invalidPadding => 11
  | .lengthRange => 12
  | .illegalCommand => 13

end Sys2Proof.Machine
end

