-- ==== Sys2Proof/Machine/Sha256.lean ====
section
/-! DEFINITION. SHA-256 as 40_hash.md section 1 gives it (R110 to R114). -/

namespace Sys2Proof.Machine

open Sys2Proof

/-- The eight 32-bit chaining words `H[0..7]` (10_state.md R30). -/
structure ShaChain where
  h0 : Word
  h1 : Word
  h2 : Word
  h3 : Word
  h4 : Word
  h5 : Word
  h6 : Word
  h7 : Word
  deriving DecidableEq, Repr

/-- The words in index order. -/
def ShaChain.words (c : ShaChain) : List Word := [c.h0, c.h1, c.h2, c.h3, c.h4, c.h5, c.h6, c.h7]

/-- R110. -/
def shaCh (x y z : Word) : Word := (x &&& y) ^^^ (~~~x &&& z)

/-- R110. -/
def shaMaj (x y z : Word) : Word := (x &&& y) ^^^ (x &&& z) ^^^ (y &&& z)

/-- R110. -/
def bsig0 (x : Word) : Word := rotr x 2 ^^^ rotr x 13 ^^^ rotr x 22

/-- R110. -/
def bsig1 (x : Word) : Word := rotr x 6 ^^^ rotr x 11 ^^^ rotr x 25

/-- R110. -/
def ssig0 (x : Word) : Word := rotr x 7 ^^^ rotr x 18 ^^^ (x >>> 3)

/-- R110. -/
def ssig1 (x : Word) : Word := rotr x 17 ^^^ rotr x 19 ^^^ (x >>> 10)

/-- R111: `IV256`. -/
def iv256 : ShaChain :=
  ⟨0x6a09e667, 0xbb67ae85, 0x3c6ef372, 0xa54ff53a, 0x510e527f, 0x9b05688c, 0x1f83d9ab, 0x5be0cd19⟩

/-- R112: the round constants `K256`, one line of the rule a list. -/
def k256 : List Word :=
  [0x428a2f98, 0x71374491, 0xb5c0fbcf, 0xe9b5dba5, 0x3956c25b, 0x59f111f1, 0x923f82a4, 0xab1c5ed5] ++
  [0xd807aa98, 0x12835b01, 0x243185be, 0x550c7dc3, 0x72be5d74, 0x80deb1fe, 0x9bdc06a7, 0xc19bf174] ++
  [0xe49b69c1, 0xefbe4786, 0x0fc19dc6, 0x240ca1cc, 0x2de92c6f, 0x4a7484aa, 0x5cb0a9dc, 0x76f988da] ++
  [0x983e5152, 0xa831c66d, 0xb00327c8, 0xbf597fc7, 0xc6e00bf3, 0xd5a79147, 0x06ca6351, 0x14292967] ++
  [0x27b70a85, 0x2e1b2138, 0x4d2c6dfc, 0x53380d13, 0x650a7354, 0x766a0abb, 0x81c2c92e, 0x92722c85] ++
  [0xa2bfe8a1, 0xa81a664b, 0xc24b8b70, 0xc76c51a3, 0xd192e819, 0xd6990624, 0xf40e3585, 0x106aa070] ++
  [0x19a4c116, 0x1e376c08, 0x2748774c, 0x34b0bcb5, 0x391c0cb3, 0x4ed8aa4a, 0x5b9cca4f, 0x682e6ff3] ++
  [0x748f82ee, 0x78a5636f, 0x84c87814, 0x8cc70208, 0x90befffa, 0xa4506ceb, 0xbef9a3f7, 0xc67178f2]

/-- R113: the words `be32(M, 4t)` of a block. -/
def beWords : List Byte → List Word
  | b0 :: b1 :: b2 :: b3 :: rest => be32 b0 b1 b2 b3 :: beWords rest
  | _ => []

/-- R113: `W[t]` from the words before it, `t` their number. -/
def nextScheduleWord (w : List Word) : Word :=
  ssig1 (w.getD (w.length - 2) 0) + w.getD (w.length - 7) 0 + ssig0 (w.getD (w.length - 15) 0) + w.getD (w.length - 16) 0

/-- R113: `n` more schedule words. -/
def extendSchedule : Nat → List Word → List Word
  | 0, w => w
  | n + 1, w => extendSchedule n (w ++ [nextScheduleWord w])

/-- R113: `W[0..63]` of a 64-byte block. -/
def shaSchedule (block : List Byte) : List Word := extendSchedule 48 (beWords block)

/-- R113: one round, on the working variables `a` to `h`. -/
def shaRound (s : ShaChain) (k w : Word) : ShaChain :=
  let t1 := s.h7 + bsig1 s.h4 + shaCh s.h4 s.h5 s.h6 + k + w
  let t2 := bsig0 s.h0 + shaMaj s.h0 s.h1 s.h2
  ⟨t1 + t2, s.h0, s.h1, s.h2, s.h3 + t1, s.h4, s.h5, s.h6⟩

/-- R113: word by word sum of the chaining value and the working variables. -/
def ShaChain.add (x y : ShaChain) : ShaChain :=
  ⟨x.h0 + y.h0, x.h1 + y.h1, x.h2 + y.h2, x.h3 + y.h3, x.h4 + y.h4, x.h5 + y.h5, x.h6 + y.h6, x.h7 + y.h7⟩

/-- R113: `sha_compress`. -/
def shaCompress (h : ShaChain) (block : List Byte) : ShaChain :=
  h.add ((k256.zip (shaSchedule block)).foldl (fun s kw => shaRound s kw.1 kw.2) h)

/-- R114: the 8-byte big-endian form of `n`; of an `n` that 64 bits do not hold, for which the spec gives none, of `n` modulo 2^64 (DESIGN CHOICE,
notes/assumptions/19.md). -/
def be64bytes (n : Nat) : List Byte :=
  be32bytes (BitVec.ofNat 32 (n / 2 ^ 32)) ++ be32bytes (BitVec.ofNat 32 n)

/-- R114: `k = (55 - len) mod 64`, the number of zero bytes padding adds. -/
def padZeros (len : Nat) : Nat := (119 - len % 64) % 64

/-- R114: `sha_pad`. -/
def shaPad (m : List Byte) : List Byte :=
  m ++ [0x80] ++ List.replicate (padZeros m.length) 0 ++ be64bytes (8 * m.length)

/-- R114: the 64-byte blocks `P[64i .. 64i+64)` of a padded string, in order. -/
def blocks (p : List Byte) : List (List Byte) :=
  (List.range (p.length / 64)).map fun i => (p.drop (64 * i)).take 64

/-- R114: the digest bytes of a chaining value. -/
def ShaChain.digest (c : ShaChain) : List Byte := c.words.flatMap be32bytes

/-- R114: `sha256(m)`. -/
def sha256 (m : List Byte) : List Byte := ((blocks (shaPad m)).foldl shaCompress iv256).digest

end Sys2Proof.Machine
end

