-- ==== Sys2Proof/Machine/Ripemd160.lean ====
section
/-! DEFINITION. RIPEMD-160 and the composite hash functions as 40_hash.md sections 2 and 3 give them (R115 to R122). -/

namespace Sys2Proof.Machine

open Sys2Proof

/-- The five 32-bit chaining words `H[0..4]` (10_state.md R31). -/
structure RmdChain where
  h0 : Word
  h1 : Word
  h2 : Word
  h3 : Word
  h4 : Word
  deriving DecidableEq, Repr

/-- The words in index order. -/
def RmdChain.words (c : RmdChain) : List Word := [c.h0, c.h1, c.h2, c.h3, c.h4]

/-- R115: the round function of step `j` in 0..79. -/
def rmdF (j : Nat) (x y z : Word) : Word :=
  match j / 16 with
  | 0 => x ^^^ y ^^^ z
  | 1 => (x &&& y) ||| (~~~x &&& z)
  | 2 => (x ||| ~~~y) ^^^ z
  | 3 => (x &&& z) ||| (y &&& ~~~z)
  | _ => x ^^^ (y ||| ~~~z)

/-- R116: the additive constants of the left line, by group of 16 steps. -/
def rmdKL : List Word := [0x00000000, 0x5a827999, 0x6ed9eba1, 0x8f1bbcdc, 0xa953fd4e]

/-- R116: the additive constants of the right line. -/
def rmdKR : List Word := [0x50a28be6, 0x5c4dd124, 0x6d703ef3, 0x7a6d76e9, 0x00000000]

/-- R117: `IV160`. -/
def iv160 : RmdChain := ⟨0x67452301, 0xefcdab89, 0x98badcfe, 0x10325476, 0xc3d2e1f0⟩

/-- R118: message-word selection of the left line. -/
def rmdRL : List Nat :=
  [0, 1, 2, 3, 4, 5, 6, 7, 8, 9, 10, 11, 12, 13, 14, 15] ++
  [7, 4, 13, 1, 10, 6, 15, 3, 12, 0, 9, 5, 2, 14, 11, 8] ++
  [3, 10, 14, 4, 9, 15, 8, 1, 2, 7, 0, 6, 13, 11, 5, 12] ++
  [1, 9, 11, 10, 0, 8, 12, 4, 13, 3, 7, 15, 14, 5, 6, 2] ++
  [4, 0, 5, 9, 7, 12, 2, 10, 14, 1, 3, 8, 11, 6, 15, 13]

/-- R118: message-word selection of the right line. -/
def rmdRR : List Nat :=
  [5, 14, 7, 0, 9, 2, 11, 4, 13, 6, 15, 8, 1, 10, 3, 12] ++
  [6, 11, 3, 7, 0, 13, 5, 10, 14, 15, 8, 12, 4, 9, 1, 2] ++
  [15, 5, 1, 3, 7, 14, 6, 9, 11, 8, 12, 2, 10, 0, 4, 13] ++
  [8, 6, 4, 1, 3, 11, 15, 0, 5, 12, 2, 13, 9, 7, 10, 14] ++
  [12, 15, 10, 4, 1, 5, 8, 7, 6, 2, 13, 14, 0, 3, 9, 11]

/-- R119: rotation amounts of the left line. -/
def rmdSL : List Nat :=
  [11, 14, 15, 12, 5, 8, 7, 9, 11, 13, 14, 15, 6, 7, 9, 8] ++
  [7, 6, 8, 13, 11, 9, 7, 15, 7, 12, 15, 9, 11, 7, 13, 12] ++
  [11, 13, 6, 7, 14, 9, 13, 15, 14, 8, 13, 6, 5, 12, 7, 5] ++
  [11, 12, 14, 15, 14, 15, 9, 8, 9, 14, 5, 6, 8, 6, 5, 12] ++
  [9, 15, 5, 11, 6, 8, 13, 12, 5, 12, 13, 14, 11, 8, 5, 6]

/-- R119: rotation amounts of the right line. -/
def rmdSR : List Nat :=
  [8, 9, 9, 11, 13, 15, 15, 5, 7, 7, 8, 11, 14, 14, 12, 6] ++
  [9, 13, 15, 7, 12, 8, 9, 11, 7, 7, 12, 7, 6, 15, 13, 11] ++
  [9, 7, 15, 11, 8, 6, 6, 14, 12, 13, 5, 14, 13, 13, 7, 5] ++
  [15, 5, 8, 11, 14, 14, 6, 14, 6, 9, 12, 9, 12, 5, 15, 8] ++
  [8, 5, 12, 9, 12, 5, 14, 6, 8, 13, 6, 5, 15, 13, 11, 11]

/-- R120: the words `le32(M, 4i)` of a block. -/
def leWords : List Byte → List Word
  | b0 :: b1 :: b2 :: b3 :: rest => le32 b0 b1 b2 b3 :: leWords rest
  | _ => []

/-- R120: one step of a line on its working variables `a` to `e`, given its round function value `fv`, message word `x`, constant `k`
and rotation `r`. -/
def rmdLineStep (s : RmdChain) (fv x k : Word) (r : Nat) : RmdChain :=
  ⟨s.h4, rotl (s.h0 + fv + x + k) r + s.h4, s.h1, rotl s.h2 10, s.h3⟩

/-- R120: step `j` of the left line. -/
def rmdLeftStep (x : List Word) (s : RmdChain) (j : Nat) : RmdChain :=
  rmdLineStep s (rmdF j s.h1 s.h2 s.h3) (x.getD (rmdRL.getD j 0) 0) (rmdKL.getD (j / 16) 0) (rmdSL.getD j 0)

/-- R120: step `j` of the right line, which applies the round functions in reverse order. -/
def rmdRightStep (x : List Word) (s : RmdChain) (j : Nat) : RmdChain :=
  rmdLineStep s (rmdF (79 - j) s.h1 s.h2 s.h3) (x.getD (rmdRR.getD j 0) 0) (rmdKR.getD (j / 16) 0) (rmdSR.getD j 0)

/-- R120: `rmd_compress`. -/
def rmdCompress (h : RmdChain) (block : List Byte) : RmdChain :=
  let x := leWords block
  let l := (List.range 80).foldl (rmdLeftStep x) h
  let r := (List.range 80).foldl (rmdRightStep x) h
  ⟨h.h1 + l.h2 + r.h3, h.h2 + l.h3 + r.h4, h.h3 + l.h4 + r.h0, h.h4 + l.h0 + r.h1, h.h0 + l.h1 + r.h2⟩

/-- R121: the 8-byte little-endian form of `n`; of an `n` that 64 bits do not hold, of `n` modulo 2^64 (DESIGN CHOICE, notes/assumptions/19.md). -/
def le64bytes (n : Nat) : List Byte :=
  le32bytes (BitVec.ofNat 32 n) ++ le32bytes (BitVec.ofNat 32 (n / 2 ^ 32))

/-- R121: `rmd_pad`. -/
def rmdPad (m : List Byte) : List Byte :=
  m ++ [0x80] ++ List.replicate (padZeros m.length) 0 ++ le64bytes (8 * m.length)

/-- R121: the digest bytes of a chaining value. -/
def RmdChain.digest (c : RmdChain) : List Byte := c.words.flatMap le32bytes

/-- R121: `ripemd160(m)`. -/
def ripemd160 (m : List Byte) : List Byte := ((blocks (rmdPad m)).foldl rmdCompress iv160).digest

/-- R122: `hash160(m) = ripemd160(sha256(m))`. -/
def hash160 (m : List Byte) : List Byte := ripemd160 (sha256 m)

/-- R122: `sha256d(m) = sha256(sha256(m))`. -/
def sha256d (m : List Byte) : List Byte := sha256 (sha256 m)

/-- R122: `checksum4(m) = sha256d(m)[0..4)`. -/
def checksum4 (m : List Byte) : List Byte := (sha256d m).take 4

end Sys2Proof.Machine
end

