-- ==== Sys2Proof/Machine/Base58Codec.lean ====
section
/-! DEFINITION. The Base58 and Base58Check functions (41_base58.md section 1, R150 to R154). -/

namespace Sys2Proof.Machine

open Sys2Proof

/-- R12, R150: `ALPHA58`, as ASCII bytes. -/
def alpha58 : List Byte :=
  [0x31, 0x32, 0x33, 0x34, 0x35, 0x36, 0x37, 0x38, 0x39, 0x41, 0x42, 0x43, 0x44, 0x45, 0x46, 0x47] ++
  [0x48, 0x4A, 0x4B, 0x4C, 0x4D, 0x4E, 0x50, 0x51, 0x52, 0x53, 0x54, 0x55, 0x56, 0x57, 0x58, 0x59] ++
  [0x5A, 0x61, 0x62, 0x63, 0x64, 0x65, 0x66, 0x67, 0x68, 0x69, 0x6A, 0x6B, 0x6D, 0x6E, 0x6F, 0x70] ++
  [0x71, 0x72, 0x73, 0x74, 0x75, 0x76, 0x77, 0x78, 0x79, 0x7A]

/-- R12: `idx(S, c)`, the index of `c` in `S`, or none. -/
def idx (chars : List Byte) (c : Byte) : Option Nat := chars.findIdx? (· == c)

/-- R11: `int_be(b)`, the integer whose base-256 big-endian digits are `b`. -/
def intBe (b : List Byte) : Nat := b.foldl (fun n x => 256 * n + x.toNat) 0

/-- R151, R152: the digits of `n` in a base, most significant first, none for 0: the rule's `while n > 0` loop, which `n` turns bound. -/
def toBase (radix : Nat) : Nat → Nat → List Nat
  | 0, _ => []
  | fuel + 1, n => if n = 0 then [] else toBase radix fuel (n / radix) ++ [n % radix]

/-- R151, R152: the number of leading bytes equal to `c`. -/
def countLeading (c : Byte) (b : List Byte) : Nat := (b.takeWhile (· == c)).length

/-- R151: `b58_encode`. -/
def b58Encode (b : List Byte) : List Byte :=
  let z := countLeading 0x00 b
  let n := intBe (b.drop z)
  List.replicate z 0x31 ++ (toBase 58 n n).map fun d => alpha58.getD d 0

/-- R152: the value of a string of Base58 characters, `n = 58 * n + idx(ALPHA58, c)`. -/
def b58Value (s : List Byte) : Nat := s.foldl (fun n c => 58 * n + (idx alpha58 c).getD 0) 0

/-- R152: the shortest big-endian byte string whose `int_be` is `n`. -/
def shortestBe (n : Nat) : List Byte := (toBase 256 n n).map (BitVec.ofNat 8)

/-- R152: `b58_decode`. -/
def b58Decode (s : List Byte) : Except ErrCode (List Byte) :=
  if s.any (fun c => (idx alpha58 c).isNone) then .error .invalidCharacter
  else
    let z := countLeading 0x31 s
    .ok (List.replicate z 0x00 ++ shortestBe (b58Value (s.drop z)))

/-- R153: `b58check_encode`: the checksum is appended (90_conflicts.md C2). -/
def b58checkEncode (p : List Byte) : List Byte := b58Encode (p ++ checksum4 p)

/-- R154: `b58check_decode`. -/
def b58checkDecode (s : List Byte) : Except ErrCode (List Byte) :=
  match b58Decode s with
  | .error e => .error e
  | .ok r =>
    if r.length < 4 then .error .checksumMismatch
    else if checksum4 (r.take (r.length - 4)) ≠ r.drop (r.length - 4) then .error .checksumMismatch
    else .ok (r.take (r.length - 4))

end Sys2Proof.Machine
end

