-- ==== Sys2Proof/Machine/Bech32Codec.lean ====
section
/-! DEFINITION. Bech32 characters, regrouping, checksum, encoding and decoding (42_bech32.md section 1, R170 to R179). -/

namespace Sys2Proof.Machine

open Sys2Proof

/-- R12, R170: `CHARSET32`, as ASCII bytes. -/
def charset32 : List Byte :=
  [0x71, 0x70, 0x7A, 0x72, 0x79, 0x39, 0x78, 0x38, 0x67, 0x66, 0x32, 0x74, 0x76, 0x64, 0x77, 0x30] ++
  [0x73, 0x33, 0x6A, 0x6E, 0x35, 0x34, 0x6B, 0x68, 0x63, 0x65, 0x36, 0x6D, 0x75, 0x61, 0x37, 0x6C]

/-- R171, R172: the running values of a regrouping. -/
structure Regroup where
  acc : Nat
  nbits : Nat
  out : List Byte
  deriving DecidableEq, Repr

/-- R171, R172: take in one value of `inBits` bits, then, while `outBits` or more bits are held, append the uppermost `outBits` of them. The
loop runs `nbits / outBits` times, and its turn `j` lowers `nbits` by `outBits` once more. -/
def Regroup.feed (inBits outBits : Nat) (g : Regroup) (v : Byte) : Regroup :=
  let acc := g.acc * 2 ^ inBits + v.toNat
  let nbits := g.nbits + inBits
  { acc := acc
    nbits := nbits % outBits
    out := g.out ++ (List.range (nbits / outBits)).map fun j =>
      BitVec.ofNat 8 ((acc >>> (nbits - outBits * (j + 1))) % 2 ^ outBits) }

/-- R171, R172: a whole string regrouped, with what is left over. -/
def regroup (inBits outBits : Nat) (b : List Byte) : Regroup :=
  b.foldl (Regroup.feed inBits outBits) ⟨0, 0, []⟩

/-- R171: `to_words`. -/
def toWords (b : List Byte) : List Byte :=
  let g := regroup 8 5 b
  if g.nbits > 0 then g.out ++ [BitVec.ofNat 8 ((g.acc <<< (5 - g.nbits)) % 32)] else g.out

/-- R172: `from_words`, strict. -/
def fromWords (w : List Byte) : Except ErrCode (List Byte) :=
  let g := regroup 5 8 w
  if g.nbits ≥ 5 then .error .invalidPadding
  else if g.acc % 2 ^ g.nbits ≠ 0 then .error .invalidPadding
  else .ok g.out

/-- R173: `hrp_expand`. -/
def hrpExpand (h : List Byte) : List Byte := h.map (fun c : Byte => c >>> 5) ++ [0] ++ h.map (fun c : Byte => c &&& 31)

/-- R174: the generator words `GEN`. -/
def bchGen : List (BitVec 30) := [0x3b6a57b2, 0x26508e6d, 0x1ea119fa, 0x3d4233dd, 0x2a1462b3]

/-- R174: the generator words that the five bits of `top` select, xored together. -/
def bchFeedback (top : BitVec 30) : BitVec 30 :=
  (List.range 5).foldl (fun acc i => if top.getLsbD i then acc ^^^ bchGen.getD i 0 else acc) 0

/-- R174: one turn of `polymod` on its 30-bit state. -/
def polymodStep (chk : BitVec 30) (x : Byte) : BitVec 30 :=
  (((chk &&& 0x1ffffff) <<< 5) ^^^ x.setWidth 30) ^^^ bchFeedback (chk >>> 25)

/-- R174: `polymod`. -/
def polymod (v : List Byte) : BitVec 30 := v.foldl polymodStep 1

/-- R175, R184: `polymod(hrp_expand(h) ++ data ++ [0,0,0,0,0,0]) xor CONST`, `CONST = 1`. -/
def checksumPm (h data : List Byte) : BitVec 30 :=
  polymod (hrpExpand h ++ data ++ [0, 0, 0, 0, 0, 0]) ^^^ 1

/-- R175: the six 5-bit groups of a polymod value, most significant first. -/
def sixGroups (pm : BitVec 30) : List Byte :=
  (List.range 6).map fun i => (pm.extractLsb' (5 * (5 - i)) 5).setWidth 8

/-- R175: `create_checksum`. -/
def createChecksum (h data : List Byte) : List Byte := sixGroups (checksumPm h data)

/-- R175: `verify_checksum`. -/
def verifyChecksum (h dv : List Byte) : Bool := polymod (hrpExpand h ++ dv) == 1

/-- R176: `hrp_ok`. -/
def hrpOk (h : List Byte) : Bool :=
  decide (1 ≤ h.length) && decide (h.length ≤ Config.hrpCap) &&
    h.all (fun c => decide (33 ≤ c.toNat) && decide (c.toNat ≤ 126)) &&
    h.all (fun c => !(decide (0x41 ≤ c.toNat) && decide (c.toNat ≤ 0x5A)))

/-- R177: a witness program's length is 2 to 40 bytes, and 20 or 32 for version 0. -/
def programLengthOk (ver len : Nat) : Bool :=
  decide (2 ≤ len) && decide (len ≤ 40) && (decide (ver ≠ 0) || decide (len = 20) || decide (len = 32))

/-- R178: the characters of a list of words. -/
def wordChars (w : List Byte) : List Byte := w.map fun x => charset32.getD x.toNat 0

/-- R178: `b32_encode`. -/
def b32Encode (h : List Byte) (ver : Byte) (prog : List Byte) : List Byte :=
  let data := ver :: toWords prog
  h ++ [0x31] ++ wordChars (data ++ createChecksum h data)

/-- R179: the largest index with `s[p] = '1'`, or none. -/
def lastSeparator (s : List Byte) : Option Nat :=
  ((List.range s.length).filter fun i => s.getD i 0 == 0x31).getLast?

/-- R179: what `b32_decode` does with the data part, once the HRP `h` is accepted and `dv` are the words of the data characters. -/
def b32DecodeData (h dv : List Byte) : Except ErrCode (List Byte × Byte × List Byte) :=
  if dv.length < 6 then .error .invalidChecksum
  else if verifyChecksum h dv = false then .error .invalidChecksum
  else match dv.take (dv.length - 6) with
    | [] => .error .invalidWitnessLength
    | ver :: rest =>
      if ver.toNat > 16 then .error .invalidWitnessVersion
      else match fromWords rest with
        | .error e => .error e
        | .ok prog => if programLengthOk ver.toNat prog.length then .ok (h, ver, prog) else .error .invalidWitnessLength

/-- R179: `b32_decode`: the human-readable part, the witness version and the program, or the first failing check's code. -/
def b32Decode (s : List Byte) : Except ErrCode (List Byte × Byte × List Byte) :=
  match lastSeparator s with
  | none => .error .invalidHRP
  | some p =>
    if p = 0 ∨ p > Config.hrpCap then .error .invalidHRP
    else if hrpOk (s.take p) = false then .error .invalidHRP
    else if (s.drop (p + 1)).any (fun c => (idx charset32 c).isNone) then .error .invalidCharset
    else b32DecodeData (s.take p) ((s.drop (p + 1)).map fun c => BitVec.ofNat 8 ((idx charset32 c).getD 0))

end Sys2Proof.Machine
end

