-- ==== Sys2Proof/Machine/State.lean ====
section
/-! DEFINITION. The state of the block (10_state.md R20 to R39), of the host in front of it (R16), and the reasons a step can stop. -/

namespace Sys2Proof.Machine

open Sys2Proof

/-- Why the machine would stop with a fault. There is no such reason: the block has no traps (60_exceptions.md R248), a bus error is a response
that changes no state (R242), and an erring command completes (R244, R247). Safe: no run ends here. -/
inductive Fault where
  deriving DecidableEq, Repr

/-- Why the machine refuses. -/
inductive Refusal where
  /-- Raised by an arm of `exec` whose instruction has no meaning yet; no arm is left so. Safe: the run stops. -/
  | notModelled (mnemonic : String)
  deriving DecidableEq, Repr

/-- The four byte buffers of R32. -/
inductive Buf where
  | inb
  | out
  | hrp
  | scr
  deriving DecidableEq, Repr

/-- The buffer bytes that hold a known value, each under its window offset (20_memory.md R60, R67): addresses strictly rising, and an address
that is not listed holds an unspecified value (R33). -/
abbrev Memory := List Host.Cell

/-- The widths a bus master can try an access at (20_memory.md R66); only 32 bits is accepted. -/
inductive Width where
  | w8
  | w16
  | w32
  | w64
  deriving DecidableEq, Repr

/-- One bus access to the window, by window offset (20_memory.md R64 to R66). A write carries the low 32 bits of its data; an access of
another width is turned away whatever its data. -/
inductive BusAccess where
  | read (width : Width) (off : Nat)
  | write (width : Width) (off : Nat) (v : Word)
  deriving DecidableEq, Repr

/-- What the world outside the engine does in one host step: a bus access of a host, a step without one, a pseudo-instruction of
30_encoding.md R100 whose accesses depend on what is read, waiting for the interrupt output (70_reset_and_hazards.md R283), or a change of
the reset input (R270). -/
inductive HostOp where
  | access (a : BusAccess)
  | idle
  /-- R100 `WAIT`: read STATUS until its bit 0 is 0, one read a step. -/
  | wait
  /-- R283: make no access until IRQ is 1. -/
  | waitIrq
  /-- R100 `RDOUT`: read OUT_LEN, then the words of OUT that hold its bytes. -/
  | rdOut
  | resetAssert
  | resetRelease
  deriving DecidableEq, Repr

/-- What a bus access is answered (20_memory.md R63 to R65, 70_reset_and_hazards.md R270). -/
inductive Answer where
  /-- A read's 32-bit data. -/
  | data (v : Word)
  /-- A write accepted. -/
  | ok
  | busError
  /-- The access came while reset was asserted. -/
  | noAnswer
  deriving DecidableEq, Repr

/-- R39, with what is outside the block but decides its next step. `BUSY` is not a field: R36 makes it `pend` being some word
(`State.busy`), and `IRQ` is `State.irq`. -/
structure State where
  /-- `CTRL.IE`, R22. -/
  ie : Bool
  /-- `STATUS.DONE`, R23. -/
  done : Bool
  /-- `STATUS.ERR`, R23. -/
  err : Bool
  /-- `STATUS.HAZ`, R23, R287. -/
  haz : Bool
  /-- `STATUS.ERRCODE`, R23, R240. -/
  errcode : Byte
  /-- `CMD`, R24. -/
  cmd : Word
  /-- `PEND`, R36: the command word issued and not yet completed. -/
  pend : Option Word
  /-- `IN_LEN`, R25. -/
  inLen : BitVec 16
  /-- `OUT_LEN`, R26. -/
  outLen : BitVec 16
  /-- `HRP_LEN`, R27. -/
  hrpLen : BitVec 8
  /-- `SCR_LEN`, R28. -/
  scrLen : BitVec 16
  /-- `RESULT`, R29. -/
  result : Word
  /-- `SHA_H0..7`, R30. -/
  shaH : ShaChain
  /-- `RMD_H0..4`, R31. -/
  rmdH : RmdChain
  /-- `IN`, `OUT`, `HRP` and `SCR`, R32, under their window offsets. -/
  mem : Memory
  /-- The reset input of R270: true while reset is asserted. -/
  resetIn : Bool
  /-- The model's own: host steps left before the completion step of `pend` (R244; notes/assumptions/3.md). -/
  countdown : Nat
  /-- The model's own: the number of the next draw of an unspecified value (R33, R282; notes/assumptions/1.md, 2.md). -/
  draws : Nat
  /-- The model's own: what the host and the platform do next, first first (R16; notes/assumptions/4.md). -/
  host : List HostOp
  /-- The model's own: the answers given on the bus, last first (notes/assumptions/4.md). -/
  answers : List Answer
  deriving DecidableEq, Repr

/-- R38, R270: the block right after reset, every buffer byte unspecified; no host op is placed and no draw is made. -/
def State.reset : State where
  ie := false
  done := false
  err := false
  haz := false
  errcode := 0
  cmd := 0
  pend := none
  inLen := 0
  outLen := 0
  hrpLen := 0
  scrLen := 0
  result := 0
  shaH := iv256
  rmdH := iv160
  mem := []
  resetIn := false
  countdown := 0
  draws := 0
  host := []
  answers := []

end Sys2Proof.Machine
end

