-- ==== Sys2Proof/Machine/Flags.lean ====
section
/-! DEFINITION. The control and status bits: how CTRL and STATUS read, what a write to them does, and the bits that issue, completion and a dropped write set
(10_state.md R22, R23; 60_exceptions.md R243, R244, R251; 70_reset_and_hazards.md R280). -/

namespace Sys2Proof.Machine

open Sys2Proof

/-- R36, R39: `STATUS.BUSY` is 1 exactly when a command is pending. -/
def State.busy (s : State) : Bool := s.pend.isSome

/-- R251, R39: the interrupt output. -/
def State.irq (s : State) : Bool := s.ie && s.done

/-- R22: `CTRL` as it reads: IE in bit 0, every other bit 0. -/
def State.ctrlWord (s : State) : Word := (BitVec.ofBool s.ie).setWidth 32

/-- R23: `STATUS` as it reads: BUSY, DONE, ERR and HAZ in bits 0 to 3, ERRCODE in 15:8, every other bit 0. -/
def State.statusWord (s : State) : Word :=
  (0 : BitVec 16) ++ s.errcode ++ (0 : BitVec 4) ++ BitVec.ofBool s.haz ++ BitVec.ofBool s.err ++ BitVec.ofBool s.done ++
    BitVec.ofBool s.busy

/-- R23, R65: a write of `v` to `STATUS` clears each of DONE, ERR and HAZ written as 1. -/
def State.writeStatus (s : State) (v : Word) : State :=
  { s with done := s.done && !v.getLsbD 1, err := s.err && !v.getLsbD 2, haz := s.haz && !v.getLsbD 3 }

/-- R280: a write dropped because BUSY = 1 sets HAZ. -/
def State.dropWrite (s : State) : State := { s with haz := true }

/-- R243: what issuing `v` sets. The countdown holds `LATENCY - 1` of R244. -/
def State.issue (s : State) (v : Word) : State :=
  { s with
    cmd := v
    pend := some v
    done := false
    err := false
    errcode := 0
    countdown := Config.latencyTail s.draws }

/-- R244: what a completion step sets besides the command's own updates, `code` being 0 for success. -/
def State.finish (s : State) (code : Byte) : State :=
  { s with
    pend := none
    done := true
    err := code != 0
    errcode := code
    countdown := 0
    draws := s.draws + 1 }

end Sys2Proof.Machine
end

