-- ==== Sys2Proof/Machine/Ops.lean ====
section
/-! DEFINITION. The named operations over memory and registers: the buffers, the updates a command stages, the completion step that applies them or reports
an error, and reset. -/

namespace Sys2Proof.Machine

open Sys2Proof

/-- What a command answers: always a next state here. -/
abbrev Next := Host.Outcome State Fault Refusal

/-- 20_memory.md R62: where a buffer's window begins. -/
def Buf.base : Buf → Nat
  | .inb => 0x100
  | .out => 0x200
  | .hrp => 0x400
  | .scr => 0x500

/-- R32: the bytes of a buffer. -/
def Buf.cap : Buf → Nat
  | .inb => Config.inCap
  | .out => Config.outCap
  | .hrp => Config.hrpCap
  | .scr => Config.scrCap

/-- R32, R62: the address is that of a buffer byte. -/
def bufferAddr (a : Nat) : Bool :=
  [Buf.inb, Buf.out, Buf.hrp, Buf.scr].any fun b => decide (b.base ≤ a) && decide (a < b.base + b.cap)

/-- The value known to stand at an address; `none` is an unspecified byte (R33). -/
def Memory.read : Memory → Nat → Option Byte
  | [], _ => none
  | (k, v) :: m, a => if k = a then some v else Memory.read m a

/-- Memory with the byte at `a` known to be a value, or, for `none`, unspecified again; the canonical form is kept. -/
def Memory.set : Memory → Nat → Option Byte → Memory
  | [], _, none => []
  | [], a, some b => [(a, b)]
  | (k, v) :: m, a, c =>
    if k < a then (k, v) :: Memory.set m a c
    else if k = a then
      match c with
      | none => m
      | some b => (a, b) :: m
    else
      match c with
      | none => (k, v) :: m
      | some b => (a, b) :: (k, v) :: m

/-- The canonical form of memory: addresses strictly rising, each that of a buffer byte. -/
abbrev Memory.wf (m : Memory) : Prop :=
  m.Pairwise (fun x y => x.1 < y.1) ∧ ∀ c ∈ m, bufferAddr c.1 = true

/-- R32, R61: byte `i` of a buffer set; nothing at or beyond the buffer's capacity can be reached. -/
def Memory.setBuf (m : Memory) (b : Buf) (i : Nat) (c : Option Byte) : Memory :=
  if i < b.cap then m.set (b.base + i) c else m

/-- R32: consecutive bytes of a buffer set, from byte `i` on. -/
def Memory.setBufs (m : Memory) (b : Buf) : Nat → List (Option Byte) → Memory
  | _, [] => m
  | i, c :: cs => Memory.setBufs (m.setBuf b i c) b (i + 1) cs

/-- R33: a buffer byte as a host read or a command sees it: its value where it is known, else a draw. Every step has a draw number of its own,
and every address a draw of its own in it. -/
def State.byteAt (s : State) (b : Buf) (i : Nat) : Byte :=
  (s.mem.read (b.base + i)).getD (Config.freeByte s.draws (b.base + i))

/-- R11, R33: bytes `[0 .. n)` of a buffer as a command sees them. -/
def State.bufBytes (s : State) (b : Buf) (n : Nat) : List Byte := (List.range n).map (s.byteAt b)

/-- R14: one `REG <- v` of the list that `Ok(updates)` carries. -/
inductive Update where
  /-- `B[i ..] <- cs`; `none` leaves a byte unspecified (44_transfer.md R230). -/
  | buf (b : Buf) (i : Nat) (cs : List (Option Byte))
  | inLen (v : BitVec 16)
  | outLen (v : BitVec 16)
  | hrpLen (v : BitVec 8)
  | scrLen (v : BitVec 16)
  | result (v : Word)
  | shaH (v : ShaChain)
  | rmdH (v : RmdChain)
  deriving DecidableEq, Repr

/-- R14, R32: one update applied. -/
def State.apply (s : State) : Update → State
  | .buf b i cs => { s with mem := s.mem.setBufs b i cs }
  | .inLen v => { s with inLen := v }
  | .outLen v => { s with outLen := v }
  | .hrpLen v => { s with hrpLen := v }
  | .scrLen v => { s with scrLen := v }
  | .result v => { s with result := v }
  | .shaH v => { s with shaH := v }
  | .rmdH v => { s with rmdH := v }

/-- R14: every update of a list applied. -/
def State.applyAll (s : State) (u : List Update) : State := u.foldl State.apply s

/-- R244, R245: the state after the completion step of a command whose `Exec` answered `r`: all its updates and code 0, or no update and
the error's code. The block has no traps (R248); this is the one place where an error is taken. -/
def State.completed (s : State) (r : Except ErrCode (List Update)) : State :=
  match r with
  | .ok u => (s.applyAll u).finish 0
  | .error e => s.finish e.code

/-- R244: the completion step. -/
def State.complete (s : State) (r : Except ErrCode (List Update)) : Next := .next (s.completed r)

/-- The updates of a command that produces bytes: `OUT[0..len(t)) <- t; OUT_LEN <- len(t)` (R26). -/
def outBytes (t : List Byte) : List Update := [.buf .out 0 (t.map some), .outLen (BitVec.ofNat 16 t.length)]

/-- R270 to R272: the block's state as reset leaves it; a running command is aborted. What is outside the block stays: the reset input,
the host, the answers it was given and the draw number. -/
def State.softReset (s : State) : State :=
  { State.reset with resetIn := s.resetIn, draws := s.draws, host := s.host, answers := s.answers }

end Sys2Proof.Machine
end

