-- ==== Sys2Proof/Machine/Operands.lean ====
section
/-! DEFINITION. The implicit operands of a command (30_encoding.md R93): `InBytes()`, `HrpBytes()` (42_bech32.md R176) and the script. -/

namespace Sys2Proof.Machine

open Sys2Proof

/-- R93: `InBytes()`. -/
def State.inBytes (s : State) : Except ErrCode (List Byte) :=
  if s.inLen.toNat > Config.inCap then .error .lengthRange else .ok (s.bufBytes .inb s.inLen.toNat)

/-- R176: `HrpBytes()`. For HRP_LEN above HRP_CAP the model follows R176, 10_state.md R27 and 60_exceptions.md R241, which give InvalidHRP,
and not 93_implementation_defined.md U13, which says LengthRange; 90_conflicts.md settles nothing here (DESIGN CHOICE, notes/assumptions/17.md). -/
def State.hrpBytes (s : State) : Except ErrCode (List Byte) :=
  if s.hrpLen.toNat = 0 ∨ s.hrpLen.toNat > Config.hrpCap then .error .invalidHRP
  else if hrpOk (s.bufBytes .hrp s.hrpLen.toNat) = false then .error .invalidHRP
  else .ok (s.bufBytes .hrp s.hrpLen.toNat)

/-- R93: the script operand, `SCR[0..SCR_LEN)`. -/
def State.scrBytes (s : State) : List Byte := s.bufBytes .scr s.scrLen.toNat

/-- R246: `m = InBytes()`, whose error comes before every later check. -/
def State.withIn (s : State) (k : List Byte → Except ErrCode (List Update)) : Except ErrCode (List Update) :=
  match s.inBytes with
  | .error e => .error e
  | .ok m => k m

/-- R246: `h = HrpBytes()`. -/
def State.withHrp (s : State) (k : List Byte → Except ErrCode (List Update)) : Except ErrCode (List Update) :=
  match s.hrpBytes with
  | .error e => .error e
  | .ok h => k h

/-- R181, R183, R184: some byte is above 31, so it is no 5-bit word. -/
def notWords (w : List Byte) : Bool := w.any fun x => decide (x.toNat > 31)

end Sys2Proof.Machine
end

