-- ==== Sys2Proof/Machine/Base58.lean ====
section
/-! DEFINITION. The Base58Check commands (41_base58.md R155 to R158). -/

namespace Sys2Proof.Machine

open Sys2Proof

/-- R155 `B58_ENC`. -/
def execB58Enc (s : State) : Next :=
  s.complete (s.withIn fun m => .ok (outBytes (b58Encode m)))

/-- R156 `B58_DEC`. -/
def execB58Dec (s : State) : Next :=
  s.complete (s.withIn fun m =>
    match b58Decode m with
    | .error e => .error e
    | .ok r => .ok (outBytes r))

/-- R157 `B58CHK_ENC`. -/
def execB58chkEnc (s : State) : Next :=
  s.complete (s.withIn fun p => .ok (outBytes (b58checkEncode p)))

/-- R158 `B58CHK_DEC`: the payload is written only after its checksum is verified. -/
def execB58chkDec (s : State) : Next :=
  s.complete (s.withIn fun m =>
    match b58checkDecode m with
    | .error e => .error e
    | .ok p => .ok (outBytes p))

end Sys2Proof.Machine
end

