-- ==== Sys2Proof/Machine/Bech32.lean ====
section
/-! DEFINITION. The Bech32 commands (42_bech32.md R180 to R186). -/

namespace Sys2Proof.Machine

open Sys2Proof

/-- R180 `B32_TOWORDS`. -/
def execB32Towords (s : State) : Next :=
  s.complete (s.withIn fun m => .ok (outBytes (toWords m)))

/-- R181 `B32_FROMWORDS`. -/
def execB32Fromwords (s : State) : Next :=
  s.complete (s.withIn fun w =>
    if notWords w then .error .invalidInput
    else match fromWords w with
      | .error e => .error e
      | .ok b => .ok (outBytes b))

/-- R182 `B32_HRPEXP`: IN is not read. -/
def execB32Hrpexp (s : State) : Next :=
  s.complete (s.withHrp fun h => .ok (outBytes (hrpExpand h)))

/-- R183 `B32_POLYMOD`: only RESULT is written. -/
def execB32Polymod (s : State) : Next :=
  s.complete (s.withIn fun v =>
    if notWords v then .error .invalidInput else .ok [.result ((polymod v).setWidth 32)])

/-- R184 `B32_CHECKSUM`. -/
def execB32Checksum (s : State) : Next :=
  s.complete (s.withIn fun d => s.withHrp fun h =>
    if notWords d then .error .invalidInput
    else .ok (outBytes (createChecksum h d) ++ [.result ((checksumPm h d).setWidth 32)]))

/-- R185 `B32_ENC v`. -/
def execB32Enc (version : Byte) (s : State) : Next :=
  s.complete (s.withIn fun prog => s.withHrp fun h =>
    if version.toNat > 16 then .error .invalidInput
    else if programLengthOk version.toNat prog.length = false then .error .invalidInput
    else .ok (outBytes (b32Encode h version prog)))

/-- R186 `B32_DEC`: nothing is written before every check has passed. -/
def execB32Dec (s : State) : Next :=
  s.complete (s.withIn fun m =>
    match b32Decode m with
    | .error e => .error e
    | .ok (h, ver, prog) =>
      .ok ([.buf .hrp 0 (h.map some), .hrpLen (BitVec.ofNat 8 h.length), .result (ver.setWidth 32)] ++ outBytes prog))

end Sys2Proof.Machine
end

