-- ==== Sys2Proof/Machine/Hash.lean ====
section
/-! DEFINITION. The hash stage's commands (40_hash.md R125 to R133). None reads or writes a chaining register but the streaming ones (R124). -/

namespace Sys2Proof.Machine

open Sys2Proof

/-- R125 `SHA256`. -/
def execSha256 (s : State) : Next :=
  s.complete (s.withIn fun m => .ok (outBytes (sha256 m)))

/-- R126 `RMD160`. -/
def execRmd160 (s : State) : Next :=
  s.complete (s.withIn fun m => .ok (outBytes (ripemd160 m)))

/-- R127, R217: the prefix of a compressed public key. -/
def keyPrefixOk (b : Byte) : Bool := b == 0x02 || b == 0x03

/-- R127 `HASH160` and `HASH160.KEY`. -/
def execHash160 (key : Bool) (s : State) : Next :=
  s.complete (s.withIn fun m =>
    if key ∧ m.length ≠ 33 then .error .invalidKeyLength
    else if key ∧ ¬ keyPrefixOk (m.getD 0 0) then .error .invalidKeyPrefix
    else .ok (outBytes (hash160 m)))

/-- R128 `SHA256D`. -/
def execSha256d (s : State) : Next :=
  s.complete (s.withIn fun m => .ok (outBytes (sha256d m)))

/-- R129 `CHECKSUM4`. -/
def execChecksum4 (s : State) : Next :=
  s.complete (s.withIn fun m => .ok (outBytes (checksum4 m)))

/-- R130 `SHA_INIT`: IN is not read. -/
def execShaInit (s : State) : Next :=
  s.complete (.ok [.shaH iv256])

/-- R131 `SHA_BLOCK`. -/
def execShaBlock (s : State) : Next :=
  s.complete (s.withIn fun m =>
    if m.length ≠ 64 then .error .lengthRange else .ok [.shaH (shaCompress s.shaH m)])

/-- R132 `RMD_INIT`: IN is not read. -/
def execRmdInit (s : State) : Next :=
  s.complete (.ok [.rmdH iv160])

/-- R133 `RMD_BLOCK`. -/
def execRmdBlock (s : State) : Next :=
  s.complete (s.withIn fun m =>
    if m.length ≠ 64 then .error .lengthRange else .ok [.rmdH (rmdCompress s.rmdH m)])

end Sys2Proof.Machine
end

