-- ==== Sys2Proof/Machine/Script.lean ====
section
/-! DEFINITION. The script serializer's commands (43_script.md R210 to R217). -/

namespace Sys2Proof.Machine

open Sys2Proof

/-- R210: append bytes to the script. -/
def State.appendScript (s : State) (t : List Byte) : List Update :=
  [.buf .scr s.scrLen.toNat (t.map some), .scrLen (BitVec.ofNat 16 (s.scrLen.toNat + t.length))]

/-- R211: a pushdata instruction's bytes. -/
def pushBytes (d : List Byte) : List Byte := BitVec.ofNat 8 d.length :: d

/-- R213 `SCR_CLEAR`: the bytes of SCR keep their values. -/
def execScrClear (s : State) : Next :=
  s.complete (.ok [.scrLen 0])

/-- R214 `SCR_PUSH`. -/
def execScrPush (s : State) : Next :=
  s.complete (s.withIn fun d =>
    if d.length > Config.maxPush then .error .invalidInput
    else if s.scrLen.toNat + 1 + d.length > Config.scrCap then .error .lengthRange
    else .ok (s.appendScript (pushBytes d)))

/-- R215 `SCR_OP b`: IN is not read, and any byte is appended (R212). -/
def execScrOp (opcode : Byte) (s : State) : Next :=
  s.complete (
    if s.scrLen.toNat + 1 > Config.scrCap then .error .lengthRange else .ok (s.appendScript [opcode]))

/-- R216 `SCR_HASH`. -/
def execScrHash (s : State) : Next :=
  s.complete (.ok (outBytes (sha256 s.scrBytes)))

/-- R217: the two-key script of the keys `m[0..33)` and `m[33..66)`. -/
def multi2Script (m : List Byte) : List Byte :=
  [0x21] ++ m.take 33 ++ [Config.opCheckSig] ++ [0x21] ++ (m.drop 33).take 33 ++ [Config.opCheckSig] ++ [Config.opBoolAnd]

/-- R217 `SCR_MULTI2`: the script is replaced, not appended to. -/
def execScrMulti2 (s : State) : Next :=
  s.complete (s.withIn fun m =>
    if m.length ≠ 66 then .error .invalidKeyLength
    else if ¬ keyPrefixOk (m.getD 0 0) ∨ ¬ keyPrefixOk (m.getD 33 0) then .error .invalidKeyPrefix
    else .ok [.buf .scr 0 ((multi2Script m).map some), .scrLen 71])

end Sys2Proof.Machine
end

