-- ==== Sys2Proof/Machine/Transfer.lean ====
section
/-! DEFINITION. The buffer transfer commands (44_transfer.md R230 and R231). -/

namespace Sys2Proof.Machine

open Sys2Proof

/-- R230 `XFER`: known bytes are copied, and an unspecified one stays unspecified in its copy. -/
def execXfer (s : State) : Next :=
  s.complete (
    if s.outLen.toNat > Config.inCap then .error .lengthRange
    else .ok [.buf .inb 0 ((List.range s.outLen.toNat).map fun i => s.mem.read (Buf.out.base + i)), .inLen s.outLen])

/-- R231 `PREPEND b` (notes/assumptions/7.md on bytes that were unspecified). -/
def execPrepend (byte : Byte) (s : State) : Next :=
  s.complete (s.withIn fun m =>
    if m.length ≥ Config.inCap then .error .lengthRange
    else .ok [.buf .inb 0 ((byte :: m).map some), .inLen (BitVec.ofNat 16 (m.length + 1))])

end Sys2Proof.Machine
end

