-- ==== Sys2Proof/Machine/Dispatch.lean ====
section
/-! DEFINITION. `Exec(cmd, S)` with its completion step (00_scope.md R14, 60_exceptions.md R244): one arm per command. -/

namespace Sys2Proof.Machine

open Sys2Proof

def exec (i : Instr) (s : State) : Host.Outcome State Fault Refusal :=
  match i with
  | .sha256 => Sys2Proof.Machine.execSha256 s
  | .rmd160 => Sys2Proof.Machine.execRmd160 s
  | .hash160 key => Sys2Proof.Machine.execHash160 key s
  | .sha256d => Sys2Proof.Machine.execSha256d s
  | .checksum4 => Sys2Proof.Machine.execChecksum4 s
  | .shaInit => Sys2Proof.Machine.execShaInit s
  | .shaBlock => Sys2Proof.Machine.execShaBlock s
  | .rmdInit => Sys2Proof.Machine.execRmdInit s
  | .rmdBlock => Sys2Proof.Machine.execRmdBlock s
  | .b58Enc => Sys2Proof.Machine.execB58Enc s
  | .b58Dec => Sys2Proof.Machine.execB58Dec s
  | .b58chkEnc => Sys2Proof.Machine.execB58chkEnc s
  | .b58chkDec => Sys2Proof.Machine.execB58chkDec s
  | .b32Towords => Sys2Proof.Machine.execB32Towords s
  | .b32Fromwords => Sys2Proof.Machine.execB32Fromwords s
  | .b32Hrpexp => Sys2Proof.Machine.execB32Hrpexp s
  | .b32Polymod => Sys2Proof.Machine.execB32Polymod s
  | .b32Checksum => Sys2Proof.Machine.execB32Checksum s
  | .b32Enc version => Sys2Proof.Machine.execB32Enc version s
  | .b32Dec => Sys2Proof.Machine.execB32Dec s
  | .scrClear => Sys2Proof.Machine.execScrClear s
  | .scrPush => Sys2Proof.Machine.execScrPush s
  | .scrOp opcode => Sys2Proof.Machine.execScrOp opcode s
  | .scrHash => Sys2Proof.Machine.execScrHash s
  | .scrMulti2 => Sys2Proof.Machine.execScrMulti2 s
  | .xfer => Sys2Proof.Machine.execXfer s
  | .prepend byte => Sys2Proof.Machine.execPrepend byte s

end Sys2Proof.Machine
end

