-- ==== Sys2Proof/Machine/Engine.lean ====
section
/-! DEFINITION. The engine agent (00_scope.md R16): the completion step of the pending command (60_exceptions.md R244, R247). -/

namespace Sys2Proof.Machine

open Sys2Proof

/-- R96, R244, R247: `Exec` checks the command word before anything else; an illegal word completes with `IllegalCommand`. -/
def State.engineStep (s : State) (c : Word) : Next :=
  match decode c with
  | .error _ => s.complete (.error .illegalCommand)
  | .ok i => exec i s

/-- The state in which the command word `c` has been issued (R243) and its completion step is the next step, whatever LATENCY is. -/
def State.issuedNow (s : State) (c : Word) : State := { s.issue c with resetIn := false, countdown := 0 }

end Sys2Proof.Machine
end

