-- ==== Sys2Proof/Machine/Bus.lean ====
section
/-! DEFINITION. The register window and its accesses (20_memory.md R60 to R70, 70_reset_and_hazards.md R280 to R282). -/

namespace Sys2Proof.Machine

open Sys2Proof

/-- R62: what stands at an offset of the window. -/
inductive Loc where
  | id
  | hwver
  | ctrl
  | status
  | cmd
  | inLen
  | outLen
  | hrpLen
  | scrLen
  | result
  /-- `SHA_Hi`. -/
  | shaH (i : Nat)
  /-- `RMD_Hi`. -/
  | rmdH (i : Nat)
  /-- The word of bytes `4k` to `4k+3` of a buffer (R67). -/
  | buf (b : Buf) (k : Nat)
  deriving DecidableEq, Repr

/-- 10_state.md R34: the classes of state. -/
inductive Class where
  | control
  | input
  | output
  deriving DecidableEq, Repr

/-- R62 to R64: what stands at an offset; `none` where the access gets a bus error, because the offset is misaligned, outside the window or
reserved. -/
def locate (off : Nat) : Option Loc :=
  if off % 4 ≠ 0 ∨ off ≥ Config.window then none
  else if off = 0x000 then some .id
  else if off = 0x004 then some .hwver
  else if off = 0x008 then some .ctrl
  else if off = 0x00C then some .status
  else if off = 0x010 then some .cmd
  else if off = 0x014 then some .inLen
  else if off = 0x018 then some .outLen
  else if off = 0x01C then some .hrpLen
  else if off = 0x020 then some .scrLen
  else if off = 0x024 then some .result
  else if 0x040 ≤ off ∧ off < 0x060 then some (.shaH ((off - 0x040) / 4))
  else if 0x060 ≤ off ∧ off < 0x074 then some (.rmdH ((off - 0x060) / 4))
  else if 0x100 ≤ off ∧ off < 0x200 then some (.buf .inb ((off - 0x100) / 4))
  else if 0x200 ≤ off ∧ off < 0x400 then some (.buf .out ((off - 0x200) / 4))
  else if 0x400 ≤ off ∧ off < 0x454 then some (.buf .hrp ((off - 0x400) / 4))
  else if 0x500 ≤ off ∧ off < 0x600 then some (.buf .scr ((off - 0x500) / 4))
  else none

/-- R34, R62: the class of what stands at an offset. -/
def Loc.cls : Loc → Class
  | .id => .control
  | .hwver => .control
  | .ctrl => .control
  | .status => .control
  | .cmd => .input
  | .inLen => .input
  | .outLen => .output
  | .hrpLen => .input
  | .scrLen => .output
  | .result => .output
  | .shaH _ => .output
  | .rmdH _ => .output
  | .buf .inb _ => .input
  | .buf .out _ => .output
  | .buf .hrp _ => .input
  | .buf .scr _ => .output

/-- R67, R68: lane `i` of a buffer's window as a host read sees it; a position beyond the buffer's bytes, which only HRP has, reads 0. -/
def State.lane (s : State) (b : Buf) (i : Nat) : Byte := if i < b.cap then s.byteAt b i else 0

/-- R67: the word of bytes `4k` to `4k+3` of a buffer, byte `4k` in bits 7:0. -/
def State.bufWord (s : State) (b : Buf) (k : Nat) : Word :=
  le32 (s.lane b (4 * k)) (s.lane b (4 * k + 1)) (s.lane b (4 * k + 2)) (s.lane b (4 * k + 3))

/-- R64: `value(off)`. -/
def State.value (s : State) : Loc → Word
  | .id => Config.idValue
  | .hwver => Config.hwverValue
  | .ctrl => s.ctrlWord
  | .status => s.statusWord
  | .cmd => s.cmd
  | .inLen => s.inLen.setWidth 32
  | .outLen => s.outLen.setWidth 32
  | .hrpLen => s.hrpLen.setWidth 32
  | .scrLen => s.scrLen.setWidth 32
  | .result => s.result
  | .shaH i => s.shaH.words.getD i 0
  | .rmdH i => s.rmdH.words.getD i 0
  | .buf b k => s.bufWord b k

/-- R64, R282: the data of an accepted read; a read of output-class state while BUSY = 1 is a draw. -/
def State.readLoc (s : State) (l : Loc) : Word :=
  if s.busy ∧ l.cls = .output then Config.freeWord s.draws else s.value l

/-- R67, R68: a host write of a buffer word; a lane beyond the buffer's bytes is ignored. -/
def State.storeWord (s : State) (b : Buf) (k : Nat) (v : Word) : State :=
  { s with mem := s.mem.setBufs b (4 * k) [some (Word.byte v 0), some (Word.byte v 1), some (Word.byte v 2), some (Word.byte v 3)] }

/-- R65, R69: the effect of a write that is not dropped; read-only state is left as it is, and so is every reserved bit. -/
def State.storeLoc (s : State) (l : Loc) (v : Word) : State :=
  match l with
  | .id => s
  | .hwver => s
  | .ctrl => if v.getLsbD 1 then s.softReset else { s with ie := v.getLsbD 0 }
  | .status => s.writeStatus v
  | .cmd => s.issue v
  | .inLen => { s with inLen := v.setWidth 16 }
  | .outLen => s
  | .hrpLen => { s with hrpLen := v.setWidth 8 }
  | .scrLen => s
  | .result => s
  | .shaH _ => s
  | .rmdH _ => s
  | .buf .inb k => s.storeWord .inb k v
  | .buf .out _ => s
  | .buf .hrp k => s.storeWord .hrp k v
  | .buf .scr _ => s

/-- R65, R280: a write of input-class state while BUSY = 1 is dropped and sets HAZ; every other write takes its effect. -/
def State.writeLoc (s : State) (l : Loc) (v : Word) : State :=
  if s.busy ∧ l.cls = .input then s.dropWrite else s.storeLoc l v

/-- R66: only a 32-bit access reaches an offset. -/
def target (width : Width) (off : Nat) : Option Loc :=
  match width with
  | .w8 => none
  | .w16 => none
  | .w32 => locate off
  | .w64 => none

/-- R63 to R66, R270: what an access is answered, and the state it leaves. -/
def State.accessResult (s : State) (a : BusAccess) : Answer × State :=
  if s.resetIn then (.noAnswer, s)
  else match a with
    | .read width off =>
      match target width off with
      | none => (.busError, s)
      | some l => (.data (s.readLoc l), s)
    | .write width off v =>
      match target width off with
      | none => (.busError, s)
      | some l => (.ok, s.writeLoc l v)

/-- A host step's draws are its own: the next step draws anew. -/
def State.tick (s : State) : State := { s with draws := s.draws + 1 }

/-- R16: one host step that makes one bus access; its answer is recorded. -/
def State.access (s : State) (a : BusAccess) : State :=
  let r := s.accessResult a
  { r.2 with answers := r.1 :: r.2.answers, draws := r.2.draws + 1 }

end Sys2Proof.Machine
end

