-- ==== Sys2Proof/Machine/HostOps.lean ====
section
/-! DEFINITION. The host agent (00_scope.md R16): one host op a step, and the pseudo-instructions of 30_encoding.md R100. -/

namespace Sys2Proof.Machine

open Sys2Proof

/-- R13: `MmioRead32(off)`. -/
def rd (off : Nat) : HostOp := .access (.read .w32 off)

/-- R13: `MmioWrite32(off, v)`. -/
def wr (off : Nat) (v : Word) : HostOp := .access (.write .w32 off v)

/-- R13, R60: the window offset of a physical address; an address below BASE does not reach the window. -/
def windowOffset (addr : Nat) : Option Nat := if Config.base ≤ addr then some (addr - Config.base) else none

/-- R13: `MemRead(addr, 4)`, as a host op of the block where the address reaches it. -/
def memRead (addr : Nat) : Option HostOp := (windowOffset addr).map rd

/-- R13: `MemWrite(addr, 4, v)`. -/
def memWrite (addr : Nat) (v : Word) : Option HostOp := (windowOffset addr).map (wr · v)

/-- R11, R100: `le32(m ++ zeros, 4k)`. -/
def le32At (m : List Byte) (k : Nat) : Word :=
  le32 (m.getD (4 * k) 0) (m.getD (4 * k + 1) 0) (m.getD (4 * k + 2) 0) (m.getD (4 * k + 3) 0)

/-- R100: the writes of a byte string to a buffer window, a word each. -/
def writeWords (b : Buf) (m : List Byte) : List HostOp :=
  (List.range ((m.length + 3) / 4)).map fun k => wr (b.base + 4 * k) (le32At m k)

/-- R100: `LOADIN m`. -/
def loadIn (m : List Byte) : List HostOp := writeWords .inb m ++ [wr 0x014 (BitVec.ofNat 32 m.length)]

/-- R100: `LOADHRP h`. -/
def loadHrp (h : List Byte) : List HostOp := writeWords .hrp h ++ [wr 0x01C (BitVec.ofNat 32 h.length)]

/-- R100: `RUN` of a command word, a raw one (`.word` of R99) included. -/
def runWord (c : Word) : List HostOp := [wr 0x010 c, .wait]

/-- R100: `RUN c`. -/
def run (i : Instr) : List HostOp := runWord (encode i)

/-- R100: the ERRCODE that `RUN` gives, bits 15:8 of the last word of STATUS read; none where the last read got no data. -/
def runCode : List Answer → Option Byte
  | .data v :: _ => some (v.extractLsb' 8 8)
  | _ => none

/-- R100: the reads of `RDOUT` once OUT_LEN read `n`. -/
def outReads (n : Nat) : List HostOp := (List.range ((n + 3) / 4)).map fun k => rd (0x200 + 4 * k)

/-- R100, R283: whether a `WAIT` is over, by the answer its read of STATUS got. -/
def waitOver : List Answer → Bool
  | .data v :: _ => !v.getLsbD 0
  | _ => false

/-- R100: what `RDOUT` reads next, by the answer its read of OUT_LEN got. Where that read got no data, because reset is asserted (R270), the
spec is silent, and the model lets `RDOUT` end there (DESIGN CHOICE, notes/assumptions/18.md). -/
def readsAfter : List Answer → List HostOp
  | .data v :: _ => outReads v.toNat
  | _ => []

/-- R67, R100: the bytes of the words that reads of a buffer window got, in their order; none where one got no data. -/
def unpack : List Answer → Option (List Byte)
  | [] => some []
  | .data v :: rest => (unpack rest).map fun m => le32bytes v ++ m
  | _ => none

/-- R100: the byte string that `RDOUT` gives, by the answers its reads got, in their order. -/
def rdOutResult : List Answer → Option (List Byte)
  | .data n :: words => (unpack words).map fun m => m.take n.toNat
  | _ => none

/-- R16, R100, R270, R283: one host op, `s.host` already holding what follows it. -/
def State.hostOp (s : State) (op : HostOp) : State :=
  match op with
  | .access a => s.access a
  | .idle => s.tick
  | .wait =>
    let t := s.access (.read .w32 0x00C)
    if waitOver t.answers then t else { t with host := .wait :: t.host }
  | .waitIrq => if s.irq then s.tick else { s.tick with host := .waitIrq :: s.host }
  | .rdOut =>
    let t := s.access (.read .w32 0x018)
    { t with host := readsAfter t.answers ++ t.host }
  | .resetAssert => { s.softReset.tick with resetIn := true }
  | .resetRelease => if s.resetIn then { s.softReset.tick with resetIn := false } else s.tick

/-- R16: one host step; with nothing placed the host makes no access. -/
def State.hostStep (s : State) : State :=
  match s.host with
  | [] => s.tick
  | op :: rest => State.hostOp { s with host := rest } op

end Sys2Proof.Machine
end

