-- ==== Sys2Proof/Machine/Step.lean ====
section
/-! DEFINITION. One step of the machine: host steps and completion steps in one total order (20_memory.md R73), the completion of a command
coming `LATENCY` steps after its issue (60_exceptions.md R244). -/

namespace Sys2Proof.Machine

open Sys2Proof

/-- R16, R73, R244: the engine takes its completion step when the host steps before it have passed; every other step is the host's. -/
def step (s : State) : Host.Outcome State Fault Refusal :=
  if s.resetIn then .next s.hostStep
  else match s.pend, s.countdown with
    | none, _ => .next s.hostStep
    | some c, 0 => s.engineStep c
    | some _, n + 1 => .next (State.hostStep { s with countdown := n })

/-- The command word `w` placed where the next step takes its command from: the pending latch, as an issue leaves it
(notes/assumptions/8.md). -/
def State.withFetchWord (s : State) (_nbits w : Nat) : State := s.issuedNow (BitVec.ofNat 32 w)

end Sys2Proof.Machine
end

