-- ==== Sys2Proof/Safety.lean ====
section
/-! DEFINITION. The terms claims about the block are made in: the invariant every step keeps, what a command reads, and the three shapes a
completion step has (success, success with bytes in OUT, error). -/

namespace Sys2Proof.Machine

open Sys2Proof

/-- What holds of the block's state at reset and after every step: memory in its canonical form; the bounds that 10_state.md R23, R26, R28 and
R29 give ERRCODE, OUT_LEN, SCR_LEN and RESULT; the bytes those lengths cover written (R33); PEND, CMD, BUSY, DONE, ERR and ERRCODE together as
R23, R24 and R36 say. That nothing runs and IRQ is 0 while reset is asserted is the model's choice (notes/assumptions/6.md): R270 of
70_reset_and_hazards.md gives the values at release only. -/
structure State.Inv (s : State) : Prop where
  memWf : s.mem.wf
  pending : ∀ c, s.pend = some c → s.cmd = c ∧ s.done = false ∧ s.err = false ∧ s.errcode = 0
  idle : s.pend = none → s.countdown = 0
  errHasCode : s.err = true → s.errcode ≠ 0
  errcodeLe : s.errcode.toNat ≤ 13
  outLenLe : s.outLen.toNat ≤ Config.outCap
  scrLenLe : s.scrLen.toNat ≤ Config.scrCap
  resultLt : s.result.toNat < 2 ^ 30
  outKnown : ∀ i, i < s.outLen.toNat → (s.mem.read (Buf.out.base + i)).isSome = true
  scrKnown : ∀ i, i < s.scrLen.toNat → (s.mem.read (Buf.scr.base + i)).isSome = true
  resetQuiet : s.resetIn = true → s.pend = none ∧ s.irq = false

/-- `IN[0..IN_LEN)` as a command sees it (30_encoding.md R93). -/
def State.input (s : State) : List Byte := s.bufBytes .inb s.inLen.toNat

/-- `HRP[0..HRP_LEN)` as a command sees it (42_bech32.md R176). -/
def State.hrpInput (s : State) : List Byte := s.bufBytes .hrp s.hrpLen.toNat

/-- IN_LEN is one a command that reads IN accepts (R93). -/
def State.InOk (s : State) : Prop := s.inLen.toNat ≤ Config.inCap

/-- HRP is one a command that reads it accepts (R176). -/
def State.HrpInOk (s : State) : Prop := 1 ≤ s.hrpLen.toNat ∧ s.hrpLen.toNat ≤ Config.hrpCap ∧ hrpOk s.hrpInput = true

/-- R33: every byte that IN, HRP and SCR hold up to their lengths has a known value, whichever of them a command reads. -/
def State.InputsKnown (s : State) : Prop :=
  (∀ i, i < s.inLen.toNat → i < Config.inCap → (s.mem.read (Buf.inb.base + i)).isSome = true) ∧
  (∀ i, i < s.hrpLen.toNat → i < Config.hrpCap → (s.mem.read (Buf.hrp.base + i)).isSome = true) ∧
  (∀ i, i < s.scrLen.toNat → (s.mem.read (Buf.scr.base + i)).isSome = true)

/-- 60_exceptions.md R244: `s` after a completion step with code 0 whose updates changed nothing but memory, to `m`. -/
def State.okWith (s : State) (m : Memory) : State :=
  { s with
    mem := m
    pend := none
    done := true
    err := false
    errcode := 0
    countdown := 0
    draws := s.draws + 1 }

/-- 60_exceptions.md R244, R245: `s` after a completion step with the code of `e`: only STATUS and PEND change. -/
def State.failed (s : State) (e : ErrCode) : State :=
  { s with
    pend := none
    done := true
    err := true
    errcode := e.code
    countdown := 0
    draws := s.draws + 1 }

/-- 10_state.md R32: from `m` to `m'`, bytes `[i .. i + len(t))` of the buffer became `t`, and every other byte of memory is as it was. -/
def Wrote (m m' : Memory) (b : Buf) (i : Nat) (t : List Byte) : Prop :=
  ∀ a, m'.read a = if b.base + i ≤ a ∧ a < b.base + i + t.length then t[a - (b.base + i)]? else m.read a

/-- The command completes with code 0, its only updates `OUT[0..len(t)) <- t` and `OUT_LEN <- len(t)`, which OUT holds. -/
def CompletesWithOutput (i : Instr) (s : State) (t : List Byte) : Prop :=
  t.length ≤ Config.outCap ∧
  ∃ m, exec i s = .next { s.okWith m with outLen := BitVec.ofNat 16 t.length } ∧ Wrote s.mem m .out 0 t

/-- The command completes with the code of `e` and no update. -/
def FailsWith (i : Instr) (s : State) (e : ErrCode) : Prop := exec i s = .next (s.failed e)

/-- 30_encoding.md R95, column outputs: the command puts bytes in OUT. -/
def namesOut : Instr → Bool
  | .sha256 => true
  | .rmd160 => true
  | .hash160 _ => true
  | .sha256d => true
  | .checksum4 => true
  | .shaInit => false
  | .shaBlock => false
  | .rmdInit => false
  | .rmdBlock => false
  | .b58Enc => true
  | .b58Dec => true
  | .b58chkEnc => true
  | .b58chkDec => true
  | .b32Towords => true
  | .b32Fromwords => true
  | .b32Hrpexp => true
  | .b32Polymod => false
  | .b32Checksum => true
  | .b32Enc _ => true
  | .b32Dec => true
  | .scrClear => false
  | .scrPush => false
  | .scrOp _ => false
  | .scrHash => true
  | .scrMulti2 => false
  | .xfer => false
  | .prepend _ => false

/-- The block's own state, without what is outside it: the host, the answers it got and the number of draws made. -/
def State.block (s : State) : State := { s with host := [], answers := [], draws := 0 }

/-- The host op resets the block if its step comes (70_reset_and_hazards.md R270, R271). -/
def HostOp.resets (op : HostOp) : Bool :=
  match op with
  | .access (.write .w32 off v) => decide (off = 0x008) && v.getLsbD 1
  | .access _ => false
  | .idle => false
  | .wait => false
  | .waitIrq => false
  | .rdOut => false
  | .resetAssert => true
  | .resetRelease => true

/-- A 32-bit read of the offset is answered with the data `v`, and nothing else of the block changes (20_memory.md R64). -/
def Reads (s : State) (off : Nat) (v : Word) : Prop :=
  s.access (.read .w32 off) = { s with answers := .data v :: s.answers, draws := s.draws + 1 }

/-- 10_state.md R38: every piece of the block's state at its value after reset. -/
def AtReset (t : State) : Prop :=
  t.ie = false ∧ t.done = false ∧ t.err = false ∧ t.haz = false ∧ t.errcode = 0 ∧ t.cmd = 0 ∧ t.pend = none ∧
  t.inLen = 0 ∧ t.outLen = 0 ∧ t.hrpLen = 0 ∧ t.scrLen = 0 ∧ t.result = 0 ∧
  t.shaH.words = [0x6a09e667, 0xbb67ae85, 0x3c6ef372, 0xa54ff53a, 0x510e527f, 0x9b05688c, 0x1f83d9ab, 0x5be0cd19] ∧
  t.rmdH.words = [0x67452301, 0xefcdab89, 0x98badcfe, 0x10325476, 0xc3d2e1f0] ∧
  (∀ a, t.mem.read a = none) ∧ t.busy = false ∧ t.irq = false

/-- `IN[0..len(m)) = m` and `IN_LEN = len(m)`, as `LOADIN m` of 30_encoding.md R100 leaves them (95_test_vectors.md, Part 2, "IN = x"). -/
def State.loaded (s : State) (m : List Byte) : State :=
  { s with mem := s.mem.setBufs .inb 0 (m.map some), inLen := BitVec.ofNat 16 m.length }

/-- Commands completing one after another, each with its input loaded before it where one is given. -/
def State.commands (s : State) : List (Option (List Byte) × Instr) → Next
  | [] => .next s
  | (m, i) :: rest =>
    match exec i (match m with | none => s | some m => s.loaded m) with
    | .next t => State.commands t rest
    | .fault r => .fault r
    | .refused r => .refused r

end Sys2Proof.Machine
end

