-- ==== Sys2Proof/Certificates/Slice0/Obligations.lean ====
section
/-! DEFINITION. What is claimed of the block, each claim with the rule of spec/ it comes from. A claim about a command's result is also the claim
that the command completes, under conditions on the state and the operands alone. -/

open Sys2Proof Sys2Proof.Machine

/-! ## Encoding (30_encoding.md) -/

/-- R90, R95, R99: command words written out from the encoding, one or more of every family, with their operands (95_test_vectors.md V42), and
words that are none (V37). -/
def Obligations.SpecCommandWordsDecode : Prop :=
  decode 0x00000001 = .ok .sha256 ∧ decode 0x00010003 = .ok (.hash160 true) ∧ decode 0x00000009 = .ok .shaBlock ∧
  decode 0x00000012 = .ok .b58chkEnc ∧ decode 0x00001028 = .ok (.b32Enc 16) ∧ decode 0x00000029 = .ok .b32Dec ∧
  decode 0x0000AC32 = .ok (.scrOp 0xAC) ∧ decode 0x00000034 = .ok .scrMulti2 ∧ decode 0x00006F41 = .ok (.prepend 0x6F) ∧
  decode 0x00000000 = .error .reservedOpcode ∧ decode 0x80000001 = .error .reservedBits ∧
  decode 0x00010001 = .error .keyNotAllowed ∧ decode 0x00011003 = .error .argNotAllowed

/-- R90 to R95: every command decodes from its own word, and from no other word. -/
def Obligations.DecodeAndEncodeAgree : Prop :=
  (∀ i : Instr, decode (encode i) = .ok i) ∧ ∀ (w : Word) (i : Instr), decode w = .ok i → w = encode i

/-- R96: the words that are commands are those that pass the four checks of `Legal`, on the bits of R90. -/
def Obligations.DecodeAcceptsExactlyTheLegalWords : Prop :=
  ∀ w : Word, (∃ i, decode w = .ok i) ↔
    (w.extractLsb' 0 8 ∈ assignedOps ∧ w.extractLsb' 17 15 = 0 ∧ (w.getLsbD 16 = true → w.extractLsb' 0 8 = 0x03) ∧
      (w.extractLsb' 8 8 ≠ 0 → w.extractLsb' 0 8 ∈ ([0x28, 0x32, 0x41] : List Byte)))

/-! ## Issue, completion and errors (60_exceptions.md, 20_memory.md section 5) -/

/-- The step whose turn is the engine's runs the pending command word's decoded command, on the state as it stands. -/
def Obligations.StepRunsThePendingCommand : Prop :=
  ∀ (s : State) (c : Word) (i : Instr), s.resetIn = false → s.pend = some c → s.countdown = 0 → decode c = .ok i → step s = exec i s

/-- R16, R73: every other step with an access next is that access of the host; while a command is pending the step brings its completion one
step nearer. -/
def Obligations.StepMakesTheHostsAccess : Prop :=
  ∀ (s : State) (a : BusAccess) (rest : List HostOp), s.host = .access a :: rest →
    ((s.resetIn = true ∨ s.pend = none) → step s = .next (State.access { s with host := rest } a)) ∧
    (∀ n c, s.resetIn = false → s.pend = some c → s.countdown = n + 1 →
      step s = .next (State.access { s with host := rest, countdown := n } a))

/-- R243: what issuing a command sets, that it sets nothing else, and that a CMD write while BUSY = 1 issues nothing. The countdown, of which
nothing is claimed, the answers and the draw number are the model's own fields (notes/assumptions/3.md, 4.md, 1.md). -/
def Obligations.CmdWriteIssuesTheCommand : Prop :=
  ∀ (s : State) (v : Word), s.resetIn = false →
    (s.busy = false → ∃ (n : Nat) (t : State), s.access (.write .w32 0x010 v) = t ∧
      t = { s with cmd := v, pend := some v, done := false, err := false, errcode := 0,
                   countdown := n, answers := .ok :: s.answers, draws := s.draws + 1 } ∧
      t.busy = true ∧ t.irq = false) ∧
    (s.busy = true →
      s.access (.write .w32 0x010 v) = { s with haz := true, answers := .ok :: s.answers, draws := s.draws + 1 })

/-- R247: an illegal word is issued like any other and completes with DONE, ERR and ERRCODE 13, changing nothing else. -/
def Obligations.IllegalCommandCompletesWithItsCode : Prop :=
  ∀ (s : State) (w : Word) (e : Reject), s.resetIn = false → decode w = .error e →
    (s.busy = false → ∃ t, s.access (.write .w32 0x010 w) = t ∧ t.pend = some w ∧ t.cmd = w ∧ t.answers = .ok :: s.answers) ∧
    (s.pend = some w → s.cmd = w → s.countdown = 0 → ∃ t, step s = .next t ∧
      t = { s with pend := none, done := true, err := true, errcode := 13, countdown := 0, draws := s.draws + 1 } ∧ t.cmd = w)

/-- R244: every command, on every state, completes in one step that leaves BUSY 0, DONE 1 and ERR telling whether ERRCODE is 0, and leaves
CTRL, HAZ and CMD (R24, R287) and everything outside the block. -/
def Obligations.EveryCommandEndsInACompletion : Prop :=
  ∀ (i : Instr) (s : State), ∃ t, exec i s = .next t ∧
    t.busy = false ∧ t.done = true ∧ t.err = (t.errcode != 0) ∧ t.errcode.toNat ≤ 12 ∧
    t.ie = s.ie ∧ t.haz = s.haz ∧ t.cmd = s.cmd ∧ t.resetIn = s.resetIn ∧ t.host = s.host ∧ t.answers = s.answers

/-- R245: a command that raises an error changes only STATUS: all or nothing, for every command. -/
def Obligations.ErringCommandChangesOnlyStatus : Prop :=
  ∀ (i : Instr) (s t : State), exec i s = .next t → t.err = true → ∃ e : ErrCode, t = s.failed e

/-- R241, R246: LengthRange is raised in exactly these cases, an IN_LEN above 256 before any other check of the command. That an HRP_LEN above 83
is none of them follows R241, R27 and R176 against 93_implementation_defined.md U13 (notes/assumptions/17.md). -/
def Obligations.LengthRangeIsRaisedExactlyWhen : Prop :=
  ∀ s : State,
    (∀ i ∈ [Instr.sha256, .rmd160, .hash160 false, .hash160 true, .sha256d, .checksum4, .b58Enc, .b58Dec, .b58chkEnc, .b58chkDec,
        .b32Towords, .b32Fromwords, .b32Polymod, .b32Checksum, .b32Dec, .scrMulti2],
      FailsWith i s .lengthRange ↔ s.inLen.toNat > 256) ∧
    (∀ v, FailsWith (.b32Enc v) s .lengthRange ↔ s.inLen.toNat > 256) ∧
    (FailsWith .shaBlock s .lengthRange ↔ s.inLen.toNat ≠ 64) ∧ (FailsWith .rmdBlock s .lengthRange ↔ s.inLen.toNat ≠ 64) ∧
    (FailsWith .scrPush s .lengthRange ↔
      s.inLen.toNat > 256 ∨ (s.inLen.toNat ≤ 75 ∧ s.scrLen.toNat + 1 + s.inLen.toNat > 256)) ∧
    (∀ b, FailsWith (.scrOp b) s .lengthRange ↔ s.scrLen.toNat + 1 > 256) ∧
    (FailsWith .xfer s .lengthRange ↔ s.outLen.toNat > 256) ∧
    (∀ b, FailsWith (.prepend b) s .lengthRange ↔ s.inLen.toNat ≥ 256) ∧
    (∀ i ∈ [Instr.shaInit, .rmdInit, .b32Hrpexp, .scrClear, .scrHash], ¬ FailsWith i s .lengthRange)

/-- R284: a pending command completes after finitely many steps whatever the host does short of a reset, and needs nothing of the host; and
R74: what it computes on is what it was at issue. The number of steps is the countdown, the model's form of LATENCY (notes/assumptions/3.md). -/
def Obligations.EveryPendingCommandCompletes : Prop :=
  ∀ (s : State) (c : Word), s.resetIn = false → s.pend = some c → (∀ op ∈ s.host, op.resets = false) →
    ∃ t u : State, Sys2Proof.core.run s.countdown s = .next t ∧
      t = { s with ie := t.ie, done := t.done, err := t.err, haz := t.haz, countdown := 0, draws := t.draws, host := t.host,
                   answers := t.answers } ∧
      step t = .next u ∧ u.busy = false ∧ u.done = true

/-- R34, R74, R280: no host step while a command runs changes what the command reads or where its results go, unless it resets the block. -/
def Obligations.RunningCommandsStateIsFrozen : Prop :=
  ∀ (s t : State) (c : Word) (n : Nat), s.resetIn = false → s.pend = some c → s.countdown = n + 1 →
    (∀ op rest, s.host = op :: rest → op.resets = false) → step s = .next t →
    t = { s with ie := t.ie, done := t.done, err := t.err, haz := t.haz, countdown := n, draws := t.draws, host := t.host,
                 answers := t.answers }

/-- R285: with every byte of IN, HRP and SCR up to their lengths known (R33), whichever the command reads, and no host access during LATENCY,
the block ends in the same state for every LATENCY, which the model holds in the countdown (notes/assumptions/3.md). -/
def Obligations.ResultDoesNotDependOnLatency : Prop :=
  ∀ (s : State) (c : Word) (n : Nat), s.resetIn = false → s.pend = some c → s.host = [] → s.InputsKnown →
    ∃ t u : State, Sys2Proof.core.run (n + 1) { s with countdown := n } = .next t ∧
      Sys2Proof.core.run 1 { s with countdown := 0 } = .next u ∧ t.block = u.block

/-- R33: with every byte the command reads known, no draw has a part in what the command does. -/
def Obligations.KnownInputsLeaveNothingToDraws : Prop :=
  ∀ (i : Instr) (s t : State) (n k : Nat), s.InputsKnown → exec i s = .next t →
    exec i { s with draws := n, countdown := k } = .next { t with draws := n + 1 }

/-! ## Whole-machine rules -/

/-- The invariant of `State.Inv` holds at reset. -/
def Obligations.ResetMeetsTheInvariant : Prop := State.reset.Inv

/-- Every step of every agent keeps the invariant of `State.Inv`. Its clause about asserted reset is the model's choice
(notes/assumptions/6.md). -/
def Obligations.EveryStepKeepsTheInvariant : Prop := ∀ s t : State, s.Inv → step s = .next t → t.Inv

/-- R30, R31, R124: only the streaming commands write or read the chaining registers. -/
def Obligations.OnlyStreamingCommandsUseTheChains : Prop :=
  ∀ (i : Instr) (s t : State), exec i s = .next t →
    (i ≠ .shaInit → i ≠ .shaBlock → t.shaH = s.shaH ∧ ∀ h, exec i { s with shaH := h } = .next { t with shaH := h }) ∧
    (i ≠ .rmdInit → i ≠ .rmdBlock → t.rmdH = s.rmdH ∧ ∀ h, exec i { s with rmdH := h } = .next { t with rmdH := h })

/-- R25 to R29: the commands that may write IN_LEN, OUT_LEN, HRP_LEN, SCR_LEN and RESULT; every other leaves them. -/
def Obligations.RegistersChangeOnlyByTheirCommands : Prop :=
  ∀ (i : Instr) (s t : State), exec i s = .next t →
    (i ≠ .xfer → (∀ b, i ≠ .prepend b) → t.inLen = s.inLen) ∧
    (namesOut i = false → t.outLen = s.outLen) ∧
    (i ≠ .b32Dec → t.hrpLen = s.hrpLen) ∧
    (i ≠ .scrClear → i ≠ .scrPush → (∀ b, i ≠ .scrOp b) → i ≠ .scrMulti2 → t.scrLen = s.scrLen) ∧
    (i ≠ .b32Polymod → i ≠ .b32Checksum → i ≠ .b32Dec → t.result = s.result)

/-- R32, R123, U12: the commands that may write a byte of IN, OUT, HRP and SCR, and that a command writing OUT writes no byte at or past the
OUT_LEN it leaves; every other byte keeps its value. -/
def Obligations.BuffersChangeOnlyByTheirCommands : Prop :=
  ∀ (i : Instr) (s t : State), s.mem.wf → exec i s = .next t →
    (i ≠ .xfer → (∀ b, i ≠ .prepend b) → ∀ k, k < 256 → t.mem.read (0x100 + k) = s.mem.read (0x100 + k)) ∧
    (namesOut i = false → ∀ k, k < 512 → t.mem.read (0x200 + k) = s.mem.read (0x200 + k)) ∧
    (∀ k, k < 512 → t.outLen.toNat ≤ k → t.mem.read (0x200 + k) = s.mem.read (0x200 + k)) ∧
    (i ≠ .b32Dec → ∀ k, k < 83 → t.mem.read (0x400 + k) = s.mem.read (0x400 + k)) ∧
    (i ≠ .scrPush → (∀ b, i ≠ .scrOp b) → i ≠ .scrMulti2 → ∀ k, k < 256 → t.mem.read (0x500 + k) = s.mem.read (0x500 + k))

/-- R280, R287: HAZ falls only by a host write of 1 to it or a reset, and rises only by a write of input-class state dropped while busy. -/
def Obligations.HazIsSticky : Prop :=
  ∀ s t : State, step s = .next t →
    (s.haz = true → t.haz = false →
      ∃ op rest, s.host = op :: rest ∧ (op.resets = true ∨ (op = .resetRelease ∧ s.resetIn = true) ∨
        ∃ v : Word, op = wr 0x00C v ∧ v.getLsbD 3 = true)) ∧
    (s.haz = false → t.haz = true → s.busy = true ∧
      ∃ off v rest l, s.host = wr off v :: rest ∧ locate off = some l ∧ l.cls = .input)

/-! ## Reset (10_state.md R38, 70_reset_and_hazards.md section 1) -/

/-- R38: the reset state, what a soft reset leaves, and what the release of the reset input leaves. -/
def Obligations.ResetGivesEveryRegisterItsValue : Prop :=
  AtReset State.reset ∧
  (∀ (s : State) (v : Word), s.resetIn = false → v.getLsbD 1 = true → AtReset (s.access (.write .w32 0x008 v))) ∧
  (∀ s : State, s.resetIn = true → AtReset (s.hostOp .resetRelease) ∧ (s.hostOp .resetRelease).resetIn = false) ∧
  (∀ s : State, s.resetIn = false → Reads s 0x000 0x44424331 ∧ Reads s 0x004 0x00010000)

/-- R272: a soft or hardware reset while a command is pending aborts it: no update of it is applied, no completion step follows, DONE stays 0
and CMD reads 0. That the assertion of the reset input already puts every value at its reset value is the model's choice
(notes/assumptions/6.md): the spec gives those values at its release. -/
def Obligations.ResetAbortsTheRunningCommand : Prop :=
  ∀ (s : State) (c : Word) (n : Nat) (op : HostOp) (rest : List HostOp), s.resetIn = false → s.pend = some c → s.countdown = n + 1 →
    s.host = op :: rest → (op = .resetAssert ∨ ∃ v : Word, v.getLsbD 1 = true ∧ op = wr 0x008 v) →
    ∃ t, step s = .next t ∧ AtReset t ∧ t.host = rest ∧ step t = .next t.hostStep

/-! ## The register window (20_memory.md, 70_reset_and_hazards.md section 2) -/

/-- R62, R63, R66: the accesses that get a bus error are those of another width, misaligned, beyond the window, or to a reserved offset; they
change nothing. -/
def Obligations.BusErrorExactlyOffTheMap : Prop :=
  ∀ (s : State) (off : Nat) (v : Word) (width : Width), s.resetIn = false →
    let off_map := width ≠ .w32 ∨ off % 4 ≠ 0 ∨ (0x028 ≤ off ∧ off < 0x040) ∨ (0x074 ≤ off ∧ off < 0x100) ∨
      (0x454 ≤ off ∧ off < 0x500) ∨ 0x600 ≤ off
    (off_map →
      s.access (.read width off) = { s with answers := .busError :: s.answers, draws := s.draws + 1 } ∧
      s.access (.write width off v) = { s with answers := .busError :: s.answers, draws := s.draws + 1 }) ∧
    (¬ off_map →
      (∃ d, (s.access (.read width off)).answers = .data d :: s.answers) ∧
      (s.access (.write width off v)).answers = .ok :: s.answers)

/-- R64, R70: a read, of any width at any offset, changes nothing of the block. -/
def Obligations.ReadsHaveNoSideEffect : Prop :=
  ∀ (s : State) (width : Width) (off : Nat), ∃ ans, s.access (.read width off) = { s with answers := ans :: s.answers, draws := s.draws + 1 }

/-- R21 to R32, R64, R67: what the registers read as, and a word of a buffer whose four bytes are known, its byte lanes little-endian; the
output-class ones while no command runs. -/
def Obligations.RegistersReadTheirContents : Prop :=
  ∀ s : State, s.resetIn = false →
    Reads s 0x000 0x44424331 ∧ Reads s 0x004 0x00010000 ∧ Reads s 0x008 (if s.ie then 1 else 0) ∧ Reads s 0x010 s.cmd ∧
    Reads s 0x014 (s.inLen.setWidth 32) ∧ Reads s 0x01C (s.hrpLen.setWidth 32) ∧
    (s.busy = false →
      Reads s 0x018 (s.outLen.setWidth 32) ∧ Reads s 0x020 (s.scrLen.setWidth 32) ∧ Reads s 0x024 s.result ∧
      Reads s 0x040 s.shaH.h0 ∧ Reads s 0x044 s.shaH.h1 ∧ Reads s 0x048 s.shaH.h2 ∧ Reads s 0x04C s.shaH.h3 ∧
      Reads s 0x050 s.shaH.h4 ∧ Reads s 0x054 s.shaH.h5 ∧ Reads s 0x058 s.shaH.h6 ∧ Reads s 0x05C s.shaH.h7 ∧
      Reads s 0x060 s.rmdH.h0 ∧ Reads s 0x064 s.rmdH.h1 ∧ Reads s 0x068 s.rmdH.h2 ∧ Reads s 0x06C s.rmdH.h3 ∧
      Reads s 0x070 s.rmdH.h4) ∧
    (∀ (k : Nat) (b0 b1 b2 b3 : Byte),
      let holds := fun (b : Buf) => s.mem.read (b.base + 4 * k) = some b0 ∧ s.mem.read (b.base + 4 * k + 1) = some b1 ∧
        s.mem.read (b.base + 4 * k + 2) = some b2 ∧ s.mem.read (b.base + 4 * k + 3) = some b3
      (k < 64 → holds .inb → Reads s (0x100 + 4 * k) (b3 ++ b2 ++ b1 ++ b0)) ∧
      (k < 20 → holds .hrp → Reads s (0x400 + 4 * k) (b3 ++ b2 ++ b1 ++ b0)) ∧
      (s.busy = false → k < 128 → holds .out → Reads s (0x200 + 4 * k) (b3 ++ b2 ++ b1 ++ b0)) ∧
      (s.busy = false → k < 64 → holds .scr → Reads s (0x500 + 4 * k) (b3 ++ b2 ++ b1 ++ b0)))

/-- R23: the bits of STATUS. -/
def Obligations.StatusReadsItsBits : Prop :=
  ∀ s : State, s.resetIn = false → ∃ w : Word, Reads s 0x00C w ∧
    w.getLsbD 0 = s.busy ∧ w.getLsbD 1 = s.done ∧ w.getLsbD 2 = s.err ∧ w.getLsbD 3 = s.haz ∧
    w.extractLsb' 4 4 = 0 ∧ w.extractLsb' 8 8 = s.errcode ∧ w.extractLsb' 16 16 = 0

/-- R282: while BUSY = 1 a read of output-class state is a draw of its own, and every other read is exact; none sets HAZ. -/
def Obligations.BusyReadsOfOutputsAreDraws : Prop :=
  ∀ (s : State) (off : Nat), s.resetIn = false → s.busy = true → off % 4 = 0 →
    ((off = 0x018 ∨ off = 0x020 ∨ off = 0x024 ∨ (0x040 ≤ off ∧ off < 0x074) ∨ (0x200 ≤ off ∧ off < 0x400) ∨
        (0x500 ≤ off ∧ off < 0x600)) →
      Reads s off (Config.freeWord s.draws)) ∧
    ((off < 0x018 ∨ off = 0x01C ∨ (0x100 ≤ off ∧ off < 0x200) ∨ (0x400 ≤ off ∧ off < 0x454)) →
      ∃ l, locate off = some l ∧ Reads s off (s.value l))

/-- R280: while BUSY = 1 a write to any input-class offset is dropped, sets HAZ and is answered as any write. -/
def Obligations.WritesWhileBusyAreDropped : Prop :=
  ∀ (s : State) (off : Nat) (v : Word), s.resetIn = false → s.busy = true → off % 4 = 0 →
    (off = 0x010 ∨ off = 0x014 ∨ off = 0x01C ∨ (0x100 ≤ off ∧ off < 0x200) ∨ (0x400 ≤ off ∧ off < 0x454)) →
    s.access (.write .w32 off v) = { s with haz := true, answers := .ok :: s.answers, draws := s.draws + 1 }

/-- R281: writes to CTRL and STATUS take effect busy or not, and writes to read-only offsets have none, busy or not. -/
def Obligations.ControlWritesTakeEffectAlways : Prop :=
  ∀ (s : State) (off : Nat) (v : Word), s.resetIn = false →
    (v.getLsbD 1 = false →
      s.access (.write .w32 0x008 v) = { s with ie := v.getLsbD 0, answers := .ok :: s.answers, draws := s.draws + 1 }) ∧
    (v.getLsbD 1 = true →
      s.access (.write .w32 0x008 v) =
        { State.reset with host := s.host, answers := .ok :: s.answers, draws := s.draws + 1 }) ∧
    s.access (.write .w32 0x00C v) =
      { s with done := s.done && !v.getLsbD 1, err := s.err && !v.getLsbD 2, haz := s.haz && !v.getLsbD 3,
               answers := .ok :: s.answers, draws := s.draws + 1 } ∧
    (off % 4 = 0 →
      (off = 0x000 ∨ off = 0x004 ∨ off = 0x018 ∨ off = 0x020 ∨ off = 0x024 ∨ (0x040 ≤ off ∧ off < 0x074) ∨
        (0x200 ≤ off ∧ off < 0x400) ∨ (0x500 ≤ off ∧ off < 0x600)) →
      s.access (.write .w32 off v) = { s with answers := .ok :: s.answers, draws := s.draws + 1 })

/-- R25, R27, R69: a host write of a length register while no command runs; the bits above the register are ignored. -/
def Obligations.LengthRegistersTakeTheirLowBits : Prop :=
  ∀ (s : State) (v : Word), s.resetIn = false → s.busy = false →
    s.access (.write .w32 0x014 v) = { s with inLen := v.setWidth 16, answers := .ok :: s.answers, draws := s.draws + 1 } ∧
    s.access (.write .w32 0x01C v) = { s with hrpLen := v.setWidth 8, answers := .ok :: s.answers, draws := s.draws + 1 }

/-- R67: a word written to the IN window, or to the HRP window below its last word, reads back, its byte lanes little-endian, and no other byte
of memory and no register of the block changes. -/
def Obligations.BufferWordWrittenReadsBack : Prop :=
  ∀ (s : State) (k : Nat) (v : Word), s.resetIn = false → s.busy = false →
    (k < 64 → ∃ m, s.access (.write .w32 (0x100 + 4 * k) v) =
        { s with mem := m, answers := .ok :: s.answers, draws := s.draws + 1 } ∧
      Wrote s.mem m .inb (4 * k) [v.extractLsb' 0 8, v.extractLsb' 8 8, v.extractLsb' 16 8, v.extractLsb' 24 8] ∧
      Reads (s.access (.write .w32 (0x100 + 4 * k) v)) (0x100 + 4 * k) v) ∧
    (k < 20 → ∃ m, s.access (.write .w32 (0x400 + 4 * k) v) =
        { s with mem := m, answers := .ok :: s.answers, draws := s.draws + 1 } ∧
      Wrote s.mem m .hrp (4 * k) [v.extractLsb' 0 8, v.extractLsb' 8 8, v.extractLsb' 16 8, v.extractLsb' 24 8] ∧
      Reads (s.access (.write .w32 (0x400 + 4 * k) v)) (0x400 + 4 * k) v)

/-- R68: byte position 83 of the HRP window reads 0, and a write to it is ignored; R67: the three bytes beside it in the word at 0x450 are
written, while no command runs, and read back like any other. -/
def Obligations.LastHrpLaneReadsZeroAndIgnoresWrites : Prop :=
  ∀ s : State, s.resetIn = false →
    (∃ w : Word, Reads s 0x450 w ∧ w.extractLsb' 24 8 = 0) ∧
    (∀ v v' : Word, v.extractLsb' 0 24 = v'.extractLsb' 0 24 →
      s.access (.write .w32 0x450 v) = s.access (.write .w32 0x450 v')) ∧
    (∀ v : Word, (s.access (.write .w32 0x450 v)).mem.read 0x453 = s.mem.read 0x453) ∧
    (s.busy = false → ∀ v : Word, ∃ m, s.access (.write .w32 0x450 v) =
        { s with mem := m, answers := .ok :: s.answers, draws := s.draws + 1 } ∧
      Wrote s.mem m .hrp 80 [v.extractLsb' 0 8, v.extractLsb' 8 8, v.extractLsb' 16 8] ∧
      Reads (s.access (.write .w32 0x450 v)) 0x450 (v &&& 0x00FFFFFF))

/-- R252: enabling, masking and clearing IRQ; and over every step IRQ falls only by one of the three events, a reset being one, or by masking. -/
def Obligations.IrqIsEnabledMaskedAndCleared : Prop :=
  (∀ (s : State) (v : Word), s.resetIn = false →
    (v.getLsbD 1 = false → (s.access (.write .w32 0x008 v)).irq = (v.getLsbD 0 && s.done) ∧
      (s.access (.write .w32 0x008 v)).done = s.done) ∧
    (v.getLsbD 1 = true → (s.access (.write .w32 0x00C v)).irq = false) ∧
    (s.busy = false → (s.access (.write .w32 0x010 v)).irq = false) ∧
    (v.getLsbD 1 = true → (s.access (.write .w32 0x008 v)).irq = false) ∧
    (s.access (.read .w32 0x00C)).irq = s.irq) ∧
  (∀ s : State, s.resetIn = true → (s.hostOp .resetRelease).irq = false) ∧
  (∀ s t : State, step s = .next t → s.irq = true → t.irq = false →
    ∃ op rest, s.host = op :: rest ∧
      ((∃ v : Word, op = wr 0x00C v ∧ v.getLsbD 1 = true) ∨ (∃ v : Word, op = wr 0x010 v ∧ s.busy = false) ∨ op.resets = true ∨
        (op = .resetRelease ∧ s.resetIn = true) ∨ ∃ v : Word, op = wr 0x008 v ∧ v.getLsbD 0 = false))

/-- R67, R100: `LOADIN m` and `LOADHRP h`, run by a host while no command runs, leave their string in IN or HRP and its length in IN_LEN or
HRP_LEN; the only other bytes they touch are those of the last word's padding, and no other register of the block changes. `RDOUT`, where the
bytes of OUT up to OUT_LEN are known, changes nothing of the block and its reads give those bytes. -/
def Obligations.HostTransfersMoveTheirBytes : Prop :=
  ∀ (s : State) (m : List Byte) (rest : List HostOp), s.resetIn = false → s.pend = none →
    (m.length ≤ 256 → s.host = loadIn m ++ rest →
      ∃ t : State, Sys2Proof.core.run (loadIn m).length s = .next t ∧
        t = { s with mem := t.mem, inLen := BitVec.ofNat 16 m.length, draws := t.draws, host := rest, answers := t.answers } ∧
        (∀ k, k < m.length → t.mem.read (0x100 + k) = m[k]?) ∧
        (∀ a, (a < 0x100 ∨ 0x100 + 4 * ((m.length + 3) / 4) ≤ a) → t.mem.read a = s.mem.read a)) ∧
    (m.length ≤ 83 → s.host = loadHrp m ++ rest →
      ∃ t : State, Sys2Proof.core.run (loadHrp m).length s = .next t ∧
        t = { s with mem := t.mem, hrpLen := BitVec.ofNat 8 m.length, draws := t.draws, host := rest, answers := t.answers } ∧
        (∀ k, k < m.length → t.mem.read (0x400 + k) = m[k]?) ∧
        (∀ a, (a < 0x400 ∨ 0x400 + 4 * ((m.length + 3) / 4) ≤ a ∨ 0x453 ≤ a) → t.mem.read a = s.mem.read a)) ∧
    (m.length ≤ 512 → m.length = s.outLen.toNat → (∀ k, k < m.length → s.mem.read (0x200 + k) = m[k]?) → s.host = .rdOut :: rest →
      ∃ (t : State) (got : List Answer), Sys2Proof.core.run (1 + (m.length + 3) / 4) s = .next t ∧
        t = { s with draws := t.draws, host := rest, answers := got.reverse ++ s.answers } ∧ rdOutResult got = some m)

/-- R13, R60: a physical access at BASE + off is the window access at off; below BASE no access reaches the block. -/
def Obligations.PhysicalAccessIsTheWindowAccess : Prop :=
  (∀ (off : Nat) (v : Word), memRead (Config.base + off) = some (rd off) ∧ memWrite (Config.base + off) v = some (wr off v)) ∧
  ∀ (a : Nat) (v : Word), (memRead a = none ↔ a < Config.base) ∧ (memWrite a v = none ↔ a < Config.base)

/-- R100, R244, R247, R283: `RUN` of a command word, legal or not, on a block that runs none, waits out its LATENCY and ends after the
completion with BUSY 0 and DONE 1, the block as the command's meaning leaves it, or as an illegal command does, and gives the ERRCODE. The
`draws`, `host` and `answers` the meaning is applied at are the model's own fields (notes/assumptions/4.md). -/
def Obligations.RunPseudoInstructionRunsTheCommand : Prop :=
  ∀ (s : State) (c : Word) (rest : List HostOp), s.resetIn = false → s.pend = none → s.host = runWord c ++ rest →
    ∃ (k n : Nat) (ans : List Answer) (t u v : State), Sys2Proof.core.run k s = .next t ∧
      u = { s with cmd := c, draws := n, host := .wait :: rest, answers := ans } ∧
      (∀ i, decode c = .ok i → exec i u = .next v) ∧ (∀ e, decode c = .error e → v = u.failed .illegalCommand) ∧
      t.block = v.block ∧ t.host = rest ∧ t.busy = false ∧ t.done = true ∧ runCode t.answers = some t.errcode

/-! ## The hash stage (40_hash.md) -/

/-- R125, R126, R128, R129: the one-shot hashes put the digest of IN in OUT, of these lengths, and change nothing else. -/
def Obligations.OneShotHashesWriteTheDigest : Prop :=
  ∀ s : State, s.inLen.toNat ≤ 256 →
    (CompletesWithOutput .sha256 s (sha256 s.input) ∧ (sha256 s.input).length = 32) ∧
    (CompletesWithOutput .rmd160 s (ripemd160 s.input) ∧ (ripemd160 s.input).length = 20) ∧
    (CompletesWithOutput .sha256d s (sha256 (sha256 s.input)) ∧ (sha256 (sha256 s.input)).length = 32) ∧
    (CompletesWithOutput .checksum4 s ((sha256 (sha256 s.input)).take 4) ∧ ((sha256 (sha256 s.input)).take 4).length = 4)

/-- R127: HASH160 of IN; with KEY = 1 only of 33 bytes that begin 02 or 03, refused otherwise with the key codes in their order. -/
def Obligations.Hash160ChecksTheKeyThenHashes : Prop :=
  ∀ s : State, s.inLen.toNat ≤ 256 →
    CompletesWithOutput (.hash160 false) s (ripemd160 (sha256 s.input)) ∧
    (s.inLen.toNat = 33 → (s.byteAt .inb 0 = 0x02 ∨ s.byteAt .inb 0 = 0x03) →
      CompletesWithOutput (.hash160 true) s (ripemd160 (sha256 s.input))) ∧
    (s.inLen.toNat ≠ 33 → FailsWith (.hash160 true) s .invalidKeyLength) ∧
    (s.inLen.toNat = 33 → s.byteAt .inb 0 ≠ 0x02 → s.byteAt .inb 0 ≠ 0x03 → FailsWith (.hash160 true) s .invalidKeyPrefix)

/-- R130, R132: SHA_INIT and RMD_INIT load the initial values, on every state. -/
def Obligations.InitCommandsLoadTheInitialValues : Prop :=
  ∀ s : State,
    exec .shaInit s = .next { s.okWith s.mem with
      shaH := ⟨0x6a09e667, 0xbb67ae85, 0x3c6ef372, 0xa54ff53a, 0x510e527f, 0x9b05688c, 0x1f83d9ab, 0x5be0cd19⟩ } ∧
    exec .rmdInit s = .next { s.okWith s.mem with rmdH := ⟨0x67452301, 0xefcdab89, 0x98badcfe, 0x10325476, 0xc3d2e1f0⟩ }

/-- R131, R133: SHA_BLOCK and RMD_BLOCK compress the 64 bytes of IN into their chaining registers, and refuse any other length. -/
def Obligations.BlockCommandsCompressOneBlock : Prop :=
  ∀ s : State,
    (s.inLen.toNat = 64 →
      exec .shaBlock s = .next { s.okWith s.mem with shaH := shaCompress s.shaH s.input } ∧
      exec .rmdBlock s = .next { s.okWith s.mem with rmdH := rmdCompress s.rmdH s.input }) ∧
    (s.inLen.toNat ≠ 64 → FailsWith .shaBlock s .lengthRange ∧ FailsWith .rmdBlock s .lengthRange)

/-- R134: streaming the padded blocks of a message of any length through SHA_INIT and SHA_BLOCK, or RMD_INIT and RMD_BLOCK, leaves chaining
registers whose digest bytes are the message's hash. For a message of 2^64 bits or more, of which R134 does not speak, the hash and the
padding are the model's own (notes/assumptions/19.md). -/
def Obligations.StreamingGivesTheOneShotHash : Prop :=
  ∀ (s : State) (m : List Byte),
    (∃ t, s.commands ((none, .shaInit) :: (blocks (shaPad m)).map fun b => (some b, .shaBlock)) = .next t ∧
      t.shaH.words.flatMap be32bytes = sha256 m) ∧
    (∃ t, s.commands ((none, .rmdInit) :: (blocks (rmdPad m)).map fun b => (some b, .rmdBlock)) = .next t ∧
      t.rmdH.words.flatMap le32bytes = ripemd160 m)

/-! ## Base58Check (41_base58.md) -/

/-- R152: decoding inverts encoding, and encoding inverts decoding on every string of the alphabet. -/
def Obligations.Base58RoundTrips : Prop :=
  (∀ b : List Byte, b58Decode (b58Encode b) = .ok b) ∧
  (∀ t : List Byte, (∀ c ∈ t, c ∈ alpha58) → ∃ b, b58Decode t = .ok b ∧ b58Encode b = t) ∧
  (∀ t : List Byte, (∃ c ∈ t, c ∉ alpha58) → b58Decode t = .error .invalidCharacter)

/-- R155, R157, R159: the Base58 encoders put the string in OUT for every input, within the lengths R159 gives. -/
def Obligations.Base58EncodersWriteTheString : Prop :=
  ∀ s : State, s.inLen.toNat ≤ 256 →
    (CompletesWithOutput .b58Enc s (b58Encode s.input) ∧ (b58Encode s.input).length ≤ 350) ∧
    (CompletesWithOutput .b58chkEnc s (b58Encode (s.input ++ checksum4 s.input)) ∧
      (b58Encode (s.input ++ checksum4 s.input)).length ≤ 356)

/-- R152, R156: B58_DEC decodes every string of the alphabet, to no more bytes than it has characters, and refuses every other. -/
def Obligations.Base58DecoderDecodesTheAlphabet : Prop :=
  ∀ s : State, s.inLen.toNat ≤ 256 →
    ((∀ c ∈ s.input, c ∈ alpha58) →
      ∃ b, b58Encode b = s.input ∧ b.length ≤ s.inLen.toNat ∧ CompletesWithOutput .b58Dec s b) ∧
    ((∃ c ∈ s.input, c ∉ alpha58) → FailsWith .b58Dec s .invalidCharacter)

/-- R154, R158: B58CHK_DEC gives the payload back of every string the encoder makes, and refuses every other string, with InvalidCharacter
where a character is outside the alphabet and ChecksumMismatch otherwise. -/
def Obligations.Base58CheckDecoderInvertsTheEncoder : Prop :=
  ∀ s : State, s.inLen.toNat ≤ 256 →
    (∀ p, s.input = b58checkEncode p → CompletesWithOutput .b58chkDec s p) ∧
    ((∃ c ∈ s.input, c ∉ alpha58) → FailsWith .b58chkDec s .invalidCharacter) ∧
    ((∀ c ∈ s.input, c ∈ alpha58) → (∀ p, s.input ≠ b58checkEncode p) → FailsWith .b58chkDec s .checksumMismatch)

/-! ## Bech32 (42_bech32.md) -/

/-- R171, R180: B32_TOWORDS regroups every input into `ceil(8 n / 5)` words of 5 bits. -/
def Obligations.ToWordsRegroupsTheInput : Prop :=
  ∀ s : State, s.inLen.toNat ≤ 256 →
    CompletesWithOutput .b32Towords s (toWords s.input) ∧ (toWords s.input).length = (8 * s.inLen.toNat + 4) / 5 ∧
    ∀ w ∈ toWords s.input, w.toNat ≤ 31

/-- R172, R181: B32_FROMWORDS gives back the bytes of every regrouping, and refuses every other string of words with InvalidPadding and a
string that is no string of words with InvalidInput. -/
def Obligations.FromWordsInvertsToWords : Prop :=
  ∀ s : State, s.inLen.toNat ≤ 256 →
    (∀ b, s.input = toWords b → CompletesWithOutput .b32Fromwords s b) ∧
    ((∃ w ∈ s.input, w.toNat > 31) → FailsWith .b32Fromwords s .invalidInput) ∧
    ((∀ w ∈ s.input, w.toNat ≤ 31) → (∀ b, s.input ≠ toWords b) → FailsWith .b32Fromwords s .invalidPadding)

/-- R173, R176, R182: B32_HRPEXP expands a valid HRP into `2 n + 1` words and refuses any other; IN has no part in it. The code for HRP_LEN above
83 is the model's choice of R27 and R176 over 93_implementation_defined.md U13 (notes/assumptions/17.md). -/
def Obligations.HrpExpansionOfAValidHrp : Prop :=
  ∀ s : State,
    (1 ≤ s.hrpLen.toNat → s.hrpLen.toNat ≤ 83 →
      (∀ c ∈ s.hrpInput, 33 ≤ c.toNat ∧ c.toNat ≤ 126 ∧ ¬ (0x41 ≤ c.toNat ∧ c.toNat ≤ 0x5A)) →
      CompletesWithOutput .b32Hrpexp s (s.hrpInput.map (fun c : Byte => c >>> 5) ++ [0] ++ s.hrpInput.map (fun c : Byte => c &&& 31))) ∧
    ((s.hrpLen.toNat = 0 ∨ s.hrpLen.toNat > 83 ∨
        ∃ c ∈ s.hrpInput, c.toNat < 33 ∨ 126 < c.toNat ∨ (0x41 ≤ c.toNat ∧ c.toNat ≤ 0x5A)) →
      FailsWith .b32Hrpexp s .invalidHRP)

/-- R183: B32_POLYMOD puts the polymod of the words of IN in RESULT, a 30-bit value, and writes nothing else. -/
def Obligations.PolymodGoesToResult : Prop :=
  ∀ s : State, s.inLen.toNat ≤ 256 →
    ((∀ w ∈ s.input, w.toNat ≤ 31) →
      exec .b32Polymod s = .next { s.okWith s.mem with result := (polymod s.input).setWidth 32 }) ∧
    ((∃ w ∈ s.input, w.toNat > 31) → FailsWith .b32Polymod s .invalidInput)

/-- R175: the checksum of words verifies, and no other six words do. -/
def Obligations.ChecksumIsTheOnlyOneThatVerifies : Prop :=
  ∀ (h d c : List Byte), (∀ w ∈ d, w.toNat ≤ 31) → (∀ w ∈ c, w.toNat ≤ 31) → c.length = 6 →
    (polymod (hrpExpand h ++ (d ++ c)) = 1 ↔ c = createChecksum h d)

/-- R175, R184: B32_CHECKSUM puts the six words in OUT and the value they are made of in RESULT, and its errors come in their order. The code for
HRP_LEN above 83 is the model's choice of R27 and R176 over 93_implementation_defined.md U13 (notes/assumptions/17.md). -/
def Obligations.ChecksumCommandWritesItsWords : Prop :=
  ∀ s : State,
    (s.InOk → s.HrpInOk → (∀ w ∈ s.input, w.toNat ≤ 31) →
      ∃ m, exec .b32Checksum s = .next { s.okWith m with
          outLen := 6
          result := (polymod (hrpExpand s.hrpInput ++ s.input ++ [0, 0, 0, 0, 0, 0]) ^^^ 1).setWidth 32 } ∧
        Wrote s.mem m .out 0 (createChecksum s.hrpInput s.input) ∧ (createChecksum s.hrpInput s.input).length = 6) ∧
    (s.InOk → ¬ s.HrpInOk → FailsWith .b32Checksum s .invalidHRP) ∧
    (s.InOk → s.HrpInOk → (∃ w ∈ s.input, w.toNat > 31) → FailsWith .b32Checksum s .invalidInput)

/-- R177, R178, R185: B32_ENC puts the address of a valid version and program in OUT, and refuses in the rule's order. The code for HRP_LEN above
83 is the model's choice of R27 and R176 over 93_implementation_defined.md U13 (notes/assumptions/17.md). -/
def Obligations.Bech32EncoderWritesTheAddress : Prop :=
  ∀ (s : State) (v : Byte),
    let valid := v.toNat ≤ 16 ∧ 2 ≤ s.inLen.toNat ∧ s.inLen.toNat ≤ 40 ∧ (v = 0 → s.inLen.toNat = 20 ∨ s.inLen.toNat = 32)
    (s.InOk → s.HrpInOk → valid →
      CompletesWithOutput (.b32Enc v) s (b32Encode s.hrpInput v s.input) ∧
      (b32Encode s.hrpInput v s.input).length = s.hrpLen.toNat + 1 + 1 + (8 * s.inLen.toNat + 4) / 5 + 6) ∧
    (s.InOk → ¬ s.HrpInOk → FailsWith (.b32Enc v) s .invalidHRP) ∧
    (s.InOk → s.HrpInOk → ¬ valid → FailsWith (.b32Enc v) s .invalidInput)

/-- R179, DBC's Bech32 round trip (95_test_vectors.md V4, for every version): the decoder gives back what the encoder was given, and it accepts
nothing the encoder does not make. -/
def Obligations.Bech32DecodesExactlyWhatItEncodes : Prop :=
  (∀ (h : List Byte) (v : Byte) (p : List Byte), hrpOk h = true → v.toNat ≤ 16 → programLengthOk v.toNat p.length = true →
    b32Decode (b32Encode h v p) = .ok (h, v, p)) ∧
  (∀ (t h : List Byte) (v : Byte) (p : List Byte), b32Decode t = .ok (h, v, p) →
    t = b32Encode h v p ∧ hrpOk h = true ∧ v.toNat ≤ 16 ∧ programLengthOk v.toNat p.length = true)

/-- R179, R186: B32_DEC of an address puts its HRP, version and program where the rule says, and changes no other byte and no other register;
of any other string it refuses, changing nothing, with the code of the first check of R179 that fails: separator and HRP, charset, checksum,
version present, version, padding, program length. -/
def Obligations.Bech32DecoderTakesTheAddressApart : Prop :=
  ∀ s : State, s.inLen.toNat ≤ 256 →
    (∀ (h : List Byte) (v : Byte) (p : List Byte), hrpOk h = true → v.toNat ≤ 16 → programLengthOk v.toNat p.length = true →
      s.input = b32Encode h v p →
      ∃ m₁ m₂, exec .b32Dec s = .next { s.okWith m₂ with
          hrpLen := BitVec.ofNat 8 h.length
          result := v.setWidth 32
          outLen := BitVec.ofNat 16 p.length } ∧
        Wrote s.mem m₁ .hrp 0 h ∧ Wrote m₁ m₂ .out 0 p) ∧
    ((∀ (h : List Byte) (v : Byte) (p : List Byte), hrpOk h = true → v.toNat ≤ 16 → programLengthOk v.toNat p.length = true →
        s.input ≠ b32Encode h v p) →
      ∃ e ∈ [ErrCode.invalidHRP, .invalidCharset, .invalidChecksum, .invalidWitnessLength, .invalidWitnessVersion, .invalidPadding],
        FailsWith .b32Dec s e) ∧
    (0x31 ∉ s.input → FailsWith .b32Dec s .invalidHRP) ∧
    (∀ h d : List Byte, s.input = h ++ [0x31] ++ d → 0x31 ∉ d →
      (hrpOk h = false → FailsWith .b32Dec s .invalidHRP) ∧
      (hrpOk h = true → (∃ c ∈ d, c ∉ charset32) → FailsWith .b32Dec s .invalidCharset) ∧
      (∀ w : List Byte, hrpOk h = true → (∀ x ∈ w, x.toNat ≤ 31) → d = wordChars w →
        ((w.length < 6 ∨ polymod (hrpExpand h ++ w) ≠ 1) → FailsWith .b32Dec s .invalidChecksum) ∧
        (w.length = 6 → polymod (hrpExpand h ++ w) = 1 → FailsWith .b32Dec s .invalidWitnessLength) ∧
        (∀ (v : Byte) (r : List Byte), 6 ≤ w.length → polymod (hrpExpand h ++ w) = 1 → w.take (w.length - 6) = v :: r →
          (v.toNat > 16 → FailsWith .b32Dec s .invalidWitnessVersion) ∧
          (v.toNat ≤ 16 → (∀ p, r ≠ toWords p) → FailsWith .b32Dec s .invalidPadding) ∧
          (∀ p, v.toNat ≤ 16 → r = toWords p → programLengthOk v.toNat p.length = false →
            FailsWith .b32Dec s .invalidWitnessLength))))

/-! ## The script serializer (43_script.md) -/

/-- R213, R216: SCR_CLEAR sets SCR_LEN to 0 and nothing else; SCR_HASH puts the SHA-256 of the script in OUT. -/
def Obligations.ScriptIsClearedAndHashed : Prop :=
  ∀ s : State,
    exec .scrClear s = .next { s.okWith s.mem with scrLen := 0 } ∧
    CompletesWithOutput .scrHash s (sha256 (s.bufBytes .scr s.scrLen.toNat))

/-- R210 to R212, R214, R215: the appending commands write their bytes at the script's end, rewrite none, and refuse what does not fit. What an
unspecified byte of IN becomes when SCR_PUSH moves it is the model's reading (notes/assumptions/7.md). -/
def Obligations.ScriptGrowsByAppending : Prop :=
  ∀ (s : State) (b : Byte),
    (s.inLen.toNat ≤ 75 → s.scrLen.toNat + 1 + s.inLen.toNat ≤ 256 →
      ∃ m, exec .scrPush s = .next { s.okWith m with scrLen := BitVec.ofNat 16 (s.scrLen.toNat + 1 + s.inLen.toNat) } ∧
        Wrote s.mem m .scr s.scrLen.toNat (BitVec.ofNat 8 s.inLen.toNat :: s.input)) ∧
    (75 < s.inLen.toNat → s.inLen.toNat ≤ 256 → FailsWith .scrPush s .invalidInput) ∧
    (s.inLen.toNat ≤ 75 → 256 < s.scrLen.toNat + 1 + s.inLen.toNat → FailsWith .scrPush s .lengthRange) ∧
    (s.scrLen.toNat + 1 ≤ 256 →
      ∃ m, exec (.scrOp b) s = .next { s.okWith m with scrLen := BitVec.ofNat 16 (s.scrLen.toNat + 1) } ∧
        Wrote s.mem m .scr s.scrLen.toNat [b]) ∧
    (256 < s.scrLen.toNat + 1 → FailsWith (.scrOp b) s .lengthRange)

/-- R217: SCR_MULTI2 replaces the script by the 71 bytes of the two keys in IN, and refuses with the key codes in their order. -/
def Obligations.TwoKeyScriptReplacesTheScript : Prop :=
  ∀ s : State, s.inLen.toNat ≤ 256 →
    let good := fun k => s.byteAt .inb k = 0x02 ∨ s.byteAt .inb k = 0x03
    (s.inLen.toNat = 66 → good 0 → good 33 →
      ∃ m, exec .scrMulti2 s = .next { s.okWith m with scrLen := 71 } ∧
        Wrote s.mem m .scr 0 ([0x21] ++ s.input.take 33 ++ [0xAC] ++ [0x21] ++ s.input.drop 33 ++ [0xAC] ++ [0x9A])) ∧
    (s.inLen.toNat ≠ 66 → FailsWith .scrMulti2 s .invalidKeyLength) ∧
    (s.inLen.toNat = 66 → ¬ (good 0 ∧ good 33) → FailsWith .scrMulti2 s .invalidKeyPrefix)

/-- R217's corner case, DBC's compile of the composite script (95_test_vectors.md V7): SCR_MULTI2 leaves the script that SCR_CLEAR, two pushes
and three opcodes leave. -/
def Obligations.TwoKeyScriptIsTheSerializedSequence : Prop :=
  ∀ (s : State) (pk1 pk2 : List Byte), pk1.length = 33 → pk2.length = 33 →
    (pk1[0]? = some 0x02 ∨ pk1[0]? = some 0x03) → (pk2[0]? = some 0x02 ∨ pk2[0]? = some 0x03) →
    ∃ t u, s.commands [(none, .scrClear), (some pk1, .scrPush), (none, .scrOp 0xAC), (some pk2, .scrPush), (none, .scrOp 0xAC),
        (none, .scrOp 0x9A)] = .next t ∧
      s.commands [(some (pk1 ++ pk2), .scrMulti2)] = .next u ∧ t.err = false ∧ u.err = false ∧
      t.scrLen = 71 ∧ u.scrLen = 71 ∧ ∀ k, k < 256 → t.mem.read (0x500 + k) = u.mem.read (0x500 + k)

/-! ## Transfer between buffers (44_transfer.md) -/

/-- R230: XFER copies OUT's bytes, known or unspecified, and its length into IN, whatever IN_LEN was, and refuses more than IN holds. The
canonical form of memory is the invariant's. -/
def Obligations.XferCopiesOutToIn : Prop :=
  ∀ s : State,
    (s.mem.wf → s.outLen.toNat ≤ 256 → ∃ m, exec .xfer s = .next { s.okWith m with inLen := s.outLen } ∧
      ∀ a, m.read a = if 0x100 ≤ a ∧ a < 0x100 + s.outLen.toNat then s.mem.read (a + 0x100) else s.mem.read a) ∧
    (256 < s.outLen.toNat → FailsWith .xfer s .lengthRange)

/-- R231: PREPEND puts its byte in front of IN and refuses a full IN. What an unspecified byte becomes when it is moved is the model's choice
(notes/assumptions/7.md). -/
def Obligations.PrependPutsAByteInFront : Prop :=
  ∀ (s : State) (b : Byte),
    (s.inLen.toNat < 256 → ∃ m, exec (.prepend b) s = .next { s.okWith m with inLen := BitVec.ofNat 16 (s.inLen.toNat + 1) } ∧
      Wrote s.mem m .inb 0 (b :: s.input)) ∧
    (256 ≤ s.inLen.toNat → FailsWith (.prepend b) s .lengthRange)
end

