-- ==== Sys2Proof/Laws/State.lean ====
section
/-! SUPPORT. One lemma per field per named update of State, true by definition, so that no proof unfolds a record update. -/

namespace Sys2Proof.Machine

open Sys2Proof

variable (s : State)

@[simp] theorem apply_buf_ie_eq (b : Buf) (i : Nat) (cs : List (Option Byte)) : (s.apply (.buf b i cs)).ie = s.ie := rfl
@[simp] theorem apply_buf_done_eq (b : Buf) (i : Nat) (cs : List (Option Byte)) : (s.apply (.buf b i cs)).done = s.done := rfl
@[simp] theorem apply_buf_err_eq (b : Buf) (i : Nat) (cs : List (Option Byte)) : (s.apply (.buf b i cs)).err = s.err := rfl
@[simp] theorem apply_buf_haz_eq (b : Buf) (i : Nat) (cs : List (Option Byte)) : (s.apply (.buf b i cs)).haz = s.haz := rfl
@[simp] theorem apply_buf_errcode_eq (b : Buf) (i : Nat) (cs : List (Option Byte)) : (s.apply (.buf b i cs)).errcode = s.errcode := rfl
@[simp] theorem apply_buf_cmd_eq (b : Buf) (i : Nat) (cs : List (Option Byte)) : (s.apply (.buf b i cs)).cmd = s.cmd := rfl
@[simp] theorem apply_buf_pend_eq (b : Buf) (i : Nat) (cs : List (Option Byte)) : (s.apply (.buf b i cs)).pend = s.pend := rfl
@[simp] theorem apply_buf_inLen_eq (b : Buf) (i : Nat) (cs : List (Option Byte)) : (s.apply (.buf b i cs)).inLen = s.inLen := rfl
@[simp] theorem apply_buf_outLen_eq (b : Buf) (i : Nat) (cs : List (Option Byte)) : (s.apply (.buf b i cs)).outLen = s.outLen := rfl
@[simp] theorem apply_buf_hrpLen_eq (b : Buf) (i : Nat) (cs : List (Option Byte)) : (s.apply (.buf b i cs)).hrpLen = s.hrpLen := rfl
@[simp] theorem apply_buf_scrLen_eq (b : Buf) (i : Nat) (cs : List (Option Byte)) : (s.apply (.buf b i cs)).scrLen = s.scrLen := rfl
@[simp] theorem apply_buf_result_eq (b : Buf) (i : Nat) (cs : List (Option Byte)) : (s.apply (.buf b i cs)).result = s.result := rfl
@[simp] theorem apply_buf_shaH_eq (b : Buf) (i : Nat) (cs : List (Option Byte)) : (s.apply (.buf b i cs)).shaH = s.shaH := rfl
@[simp] theorem apply_buf_rmdH_eq (b : Buf) (i : Nat) (cs : List (Option Byte)) : (s.apply (.buf b i cs)).rmdH = s.rmdH := rfl
@[simp] theorem apply_buf_mem_eq (b : Buf) (i : Nat) (cs : List (Option Byte)) : (s.apply (.buf b i cs)).mem = s.mem.setBufs b i cs := rfl
@[simp] theorem apply_buf_resetIn_eq (b : Buf) (i : Nat) (cs : List (Option Byte)) : (s.apply (.buf b i cs)).resetIn = s.resetIn := rfl
@[simp] theorem apply_buf_countdown_eq (b : Buf) (i : Nat) (cs : List (Option Byte)) : (s.apply (.buf b i cs)).countdown = s.countdown := rfl
@[simp] theorem apply_buf_draws_eq (b : Buf) (i : Nat) (cs : List (Option Byte)) : (s.apply (.buf b i cs)).draws = s.draws := rfl
@[simp] theorem apply_buf_host_eq (b : Buf) (i : Nat) (cs : List (Option Byte)) : (s.apply (.buf b i cs)).host = s.host := rfl
@[simp] theorem apply_buf_answers_eq (b : Buf) (i : Nat) (cs : List (Option Byte)) : (s.apply (.buf b i cs)).answers = s.answers := rfl

@[simp] theorem apply_inLen_ie_eq (v : BitVec 16) : (s.apply (.inLen v)).ie = s.ie := rfl
@[simp] theorem apply_inLen_done_eq (v : BitVec 16) : (s.apply (.inLen v)).done = s.done := rfl
@[simp] theorem apply_inLen_err_eq (v : BitVec 16) : (s.apply (.inLen v)).err = s.err := rfl
@[simp] theorem apply_inLen_haz_eq (v : BitVec 16) : (s.apply (.inLen v)).haz = s.haz := rfl
@[simp] theorem apply_inLen_errcode_eq (v : BitVec 16) : (s.apply (.inLen v)).errcode = s.errcode := rfl
@[simp] theorem apply_inLen_cmd_eq (v : BitVec 16) : (s.apply (.inLen v)).cmd = s.cmd := rfl
@[simp] theorem apply_inLen_pend_eq (v : BitVec 16) : (s.apply (.inLen v)).pend = s.pend := rfl
@[simp] theorem apply_inLen_inLen_eq (v : BitVec 16) : (s.apply (.inLen v)).inLen = v := rfl
@[simp] theorem apply_inLen_outLen_eq (v : BitVec 16) : (s.apply (.inLen v)).outLen = s.outLen := rfl
@[simp] theorem apply_inLen_hrpLen_eq (v : BitVec 16) : (s.apply (.inLen v)).hrpLen = s.hrpLen := rfl
@[simp] theorem apply_inLen_scrLen_eq (v : BitVec 16) : (s.apply (.inLen v)).scrLen = s.scrLen := rfl
@[simp] theorem apply_inLen_result_eq (v : BitVec 16) : (s.apply (.inLen v)).result = s.result := rfl
@[simp] theorem apply_inLen_shaH_eq (v : BitVec 16) : (s.apply (.inLen v)).shaH = s.shaH := rfl
@[simp] theorem apply_inLen_rmdH_eq (v : BitVec 16) : (s.apply (.inLen v)).rmdH = s.rmdH := rfl
@[simp] theorem apply_inLen_mem_eq (v : BitVec 16) : (s.apply (.inLen v)).mem = s.mem := rfl
@[simp] theorem apply_inLen_resetIn_eq (v : BitVec 16) : (s.apply (.inLen v)).resetIn = s.resetIn := rfl
@[simp] theorem apply_inLen_countdown_eq (v : BitVec 16) : (s.apply (.inLen v)).countdown = s.countdown := rfl
@[simp] theorem apply_inLen_draws_eq (v : BitVec 16) : (s.apply (.inLen v)).draws = s.draws := rfl
@[simp] theorem apply_inLen_host_eq (v : BitVec 16) : (s.apply (.inLen v)).host = s.host := rfl
@[simp] theorem apply_inLen_answers_eq (v : BitVec 16) : (s.apply (.inLen v)).answers = s.answers := rfl

@[simp] theorem apply_outLen_ie_eq (v : BitVec 16) : (s.apply (.outLen v)).ie = s.ie := rfl
@[simp] theorem apply_outLen_done_eq (v : BitVec 16) : (s.apply (.outLen v)).done = s.done := rfl
@[simp] theorem apply_outLen_err_eq (v : BitVec 16) : (s.apply (.outLen v)).err = s.err := rfl
@[simp] theorem apply_outLen_haz_eq (v : BitVec 16) : (s.apply (.outLen v)).haz = s.haz := rfl
@[simp] theorem apply_outLen_errcode_eq (v : BitVec 16) : (s.apply (.outLen v)).errcode = s.errcode := rfl
@[simp] theorem apply_outLen_cmd_eq (v : BitVec 16) : (s.apply (.outLen v)).cmd = s.cmd := rfl
@[simp] theorem apply_outLen_pend_eq (v : BitVec 16) : (s.apply (.outLen v)).pend = s.pend := rfl
@[simp] theorem apply_outLen_inLen_eq (v : BitVec 16) : (s.apply (.outLen v)).inLen = s.inLen := rfl
@[simp] theorem apply_outLen_outLen_eq (v : BitVec 16) : (s.apply (.outLen v)).outLen = v := rfl
@[simp] theorem apply_outLen_hrpLen_eq (v : BitVec 16) : (s.apply (.outLen v)).hrpLen = s.hrpLen := rfl
@[simp] theorem apply_outLen_scrLen_eq (v : BitVec 16) : (s.apply (.outLen v)).scrLen = s.scrLen := rfl
@[simp] theorem apply_outLen_result_eq (v : BitVec 16) : (s.apply (.outLen v)).result = s.result := rfl
@[simp] theorem apply_outLen_shaH_eq (v : BitVec 16) : (s.apply (.outLen v)).shaH = s.shaH := rfl
@[simp] theorem apply_outLen_rmdH_eq (v : BitVec 16) : (s.apply (.outLen v)).rmdH = s.rmdH := rfl
@[simp] theorem apply_outLen_mem_eq (v : BitVec 16) : (s.apply (.outLen v)).mem = s.mem := rfl
@[simp] theorem apply_outLen_resetIn_eq (v : BitVec 16) : (s.apply (.outLen v)).resetIn = s.resetIn := rfl
@[simp] theorem apply_outLen_countdown_eq (v : BitVec 16) : (s.apply (.outLen v)).countdown = s.countdown := rfl
@[simp] theorem apply_outLen_draws_eq (v : BitVec 16) : (s.apply (.outLen v)).draws = s.draws := rfl
@[simp] theorem apply_outLen_host_eq (v : BitVec 16) : (s.apply (.outLen v)).host = s.host := rfl
@[simp] theorem apply_outLen_answers_eq (v : BitVec 16) : (s.apply (.outLen v)).answers = s.answers := rfl

@[simp] theorem apply_hrpLen_ie_eq (v : BitVec 8) : (s.apply (.hrpLen v)).ie = s.ie := rfl
@[simp] theorem apply_hrpLen_done_eq (v : BitVec 8) : (s.apply (.hrpLen v)).done = s.done := rfl
@[simp] theorem apply_hrpLen_err_eq (v : BitVec 8) : (s.apply (.hrpLen v)).err = s.err := rfl
@[simp] theorem apply_hrpLen_haz_eq (v : BitVec 8) : (s.apply (.hrpLen v)).haz = s.haz := rfl
@[simp] theorem apply_hrpLen_errcode_eq (v : BitVec 8) : (s.apply (.hrpLen v)).errcode = s.errcode := rfl
@[simp] theorem apply_hrpLen_cmd_eq (v : BitVec 8) : (s.apply (.hrpLen v)).cmd = s.cmd := rfl
@[simp] theorem apply_hrpLen_pend_eq (v : BitVec 8) : (s.apply (.hrpLen v)).pend = s.pend := rfl
@[simp] theorem apply_hrpLen_inLen_eq (v : BitVec 8) : (s.apply (.hrpLen v)).inLen = s.inLen := rfl
@[simp] theorem apply_hrpLen_outLen_eq (v : BitVec 8) : (s.apply (.hrpLen v)).outLen = s.outLen := rfl
@[simp] theorem apply_hrpLen_hrpLen_eq (v : BitVec 8) : (s.apply (.hrpLen v)).hrpLen = v := rfl
@[simp] theorem apply_hrpLen_scrLen_eq (v : BitVec 8) : (s.apply (.hrpLen v)).scrLen = s.scrLen := rfl
@[simp] theorem apply_hrpLen_result_eq (v : BitVec 8) : (s.apply (.hrpLen v)).result = s.result := rfl
@[simp] theorem apply_hrpLen_shaH_eq (v : BitVec 8) : (s.apply (.hrpLen v)).shaH = s.shaH := rfl
@[simp] theorem apply_hrpLen_rmdH_eq (v : BitVec 8) : (s.apply (.hrpLen v)).rmdH = s.rmdH := rfl
@[simp] theorem apply_hrpLen_mem_eq (v : BitVec 8) : (s.apply (.hrpLen v)).mem = s.mem := rfl
@[simp] theorem apply_hrpLen_resetIn_eq (v : BitVec 8) : (s.apply (.hrpLen v)).resetIn = s.resetIn := rfl
@[simp] theorem apply_hrpLen_countdown_eq (v : BitVec 8) : (s.apply (.hrpLen v)).countdown = s.countdown := rfl
@[simp] theorem apply_hrpLen_draws_eq (v : BitVec 8) : (s.apply (.hrpLen v)).draws = s.draws := rfl
@[simp] theorem apply_hrpLen_host_eq (v : BitVec 8) : (s.apply (.hrpLen v)).host = s.host := rfl
@[simp] theorem apply_hrpLen_answers_eq (v : BitVec 8) : (s.apply (.hrpLen v)).answers = s.answers := rfl

@[simp] theorem apply_scrLen_ie_eq (v : BitVec 16) : (s.apply (.scrLen v)).ie = s.ie := rfl
@[simp] theorem apply_scrLen_done_eq (v : BitVec 16) : (s.apply (.scrLen v)).done = s.done := rfl
@[simp] theorem apply_scrLen_err_eq (v : BitVec 16) : (s.apply (.scrLen v)).err = s.err := rfl
@[simp] theorem apply_scrLen_haz_eq (v : BitVec 16) : (s.apply (.scrLen v)).haz = s.haz := rfl
@[simp] theorem apply_scrLen_errcode_eq (v : BitVec 16) : (s.apply (.scrLen v)).errcode = s.errcode := rfl
@[simp] theorem apply_scrLen_cmd_eq (v : BitVec 16) : (s.apply (.scrLen v)).cmd = s.cmd := rfl
@[simp] theorem apply_scrLen_pend_eq (v : BitVec 16) : (s.apply (.scrLen v)).pend = s.pend := rfl
@[simp] theorem apply_scrLen_inLen_eq (v : BitVec 16) : (s.apply (.scrLen v)).inLen = s.inLen := rfl
@[simp] theorem apply_scrLen_outLen_eq (v : BitVec 16) : (s.apply (.scrLen v)).outLen = s.outLen := rfl
@[simp] theorem apply_scrLen_hrpLen_eq (v : BitVec 16) : (s.apply (.scrLen v)).hrpLen = s.hrpLen := rfl
@[simp] theorem apply_scrLen_scrLen_eq (v : BitVec 16) : (s.apply (.scrLen v)).scrLen = v := rfl
@[simp] theorem apply_scrLen_result_eq (v : BitVec 16) : (s.apply (.scrLen v)).result = s.result := rfl
@[simp] theorem apply_scrLen_shaH_eq (v : BitVec 16) : (s.apply (.scrLen v)).shaH = s.shaH := rfl
@[simp] theorem apply_scrLen_rmdH_eq (v : BitVec 16) : (s.apply (.scrLen v)).rmdH = s.rmdH := rfl
@[simp] theorem apply_scrLen_mem_eq (v : BitVec 16) : (s.apply (.scrLen v)).mem = s.mem := rfl
@[simp] theorem apply_scrLen_resetIn_eq (v : BitVec 16) : (s.apply (.scrLen v)).resetIn = s.resetIn := rfl
@[simp] theorem apply_scrLen_countdown_eq (v : BitVec 16) : (s.apply (.scrLen v)).countdown = s.countdown := rfl
@[simp] theorem apply_scrLen_draws_eq (v : BitVec 16) : (s.apply (.scrLen v)).draws = s.draws := rfl
@[simp] theorem apply_scrLen_host_eq (v : BitVec 16) : (s.apply (.scrLen v)).host = s.host := rfl
@[simp] theorem apply_scrLen_answers_eq (v : BitVec 16) : (s.apply (.scrLen v)).answers = s.answers := rfl

@[simp] theorem apply_result_ie_eq (v : Word) : (s.apply (.result v)).ie = s.ie := rfl
@[simp] theorem apply_result_done_eq (v : Word) : (s.apply (.result v)).done = s.done := rfl
@[simp] theorem apply_result_err_eq (v : Word) : (s.apply (.result v)).err = s.err := rfl
@[simp] theorem apply_result_haz_eq (v : Word) : (s.apply (.result v)).haz = s.haz := rfl
@[simp] theorem apply_result_errcode_eq (v : Word) : (s.apply (.result v)).errcode = s.errcode := rfl
@[simp] theorem apply_result_cmd_eq (v : Word) : (s.apply (.result v)).cmd = s.cmd := rfl
@[simp] theorem apply_result_pend_eq (v : Word) : (s.apply (.result v)).pend = s.pend := rfl
@[simp] theorem apply_result_inLen_eq (v : Word) : (s.apply (.result v)).inLen = s.inLen := rfl
@[simp] theorem apply_result_outLen_eq (v : Word) : (s.apply (.result v)).outLen = s.outLen := rfl
@[simp] theorem apply_result_hrpLen_eq (v : Word) : (s.apply (.result v)).hrpLen = s.hrpLen := rfl
@[simp] theorem apply_result_scrLen_eq (v : Word) : (s.apply (.result v)).scrLen = s.scrLen := rfl
@[simp] theorem apply_result_result_eq (v : Word) : (s.apply (.result v)).result = v := rfl
@[simp] theorem apply_result_shaH_eq (v : Word) : (s.apply (.result v)).shaH = s.shaH := rfl
@[simp] theorem apply_result_rmdH_eq (v : Word) : (s.apply (.result v)).rmdH = s.rmdH := rfl
@[simp] theorem apply_result_mem_eq (v : Word) : (s.apply (.result v)).mem = s.mem := rfl
@[simp] theorem apply_result_resetIn_eq (v : Word) : (s.apply (.result v)).resetIn = s.resetIn := rfl
@[simp] theorem apply_result_countdown_eq (v : Word) : (s.apply (.result v)).countdown = s.countdown := rfl
@[simp] theorem apply_result_draws_eq (v : Word) : (s.apply (.result v)).draws = s.draws := rfl
@[simp] theorem apply_result_host_eq (v : Word) : (s.apply (.result v)).host = s.host := rfl
@[simp] theorem apply_result_answers_eq (v : Word) : (s.apply (.result v)).answers = s.answers := rfl

@[simp] theorem apply_shaH_ie_eq (v : ShaChain) : (s.apply (.shaH v)).ie = s.ie := rfl
@[simp] theorem apply_shaH_done_eq (v : ShaChain) : (s.apply (.shaH v)).done = s.done := rfl
@[simp] theorem apply_shaH_err_eq (v : ShaChain) : (s.apply (.shaH v)).err = s.err := rfl
@[simp] theorem apply_shaH_haz_eq (v : ShaChain) : (s.apply (.shaH v)).haz = s.haz := rfl
@[simp] theorem apply_shaH_errcode_eq (v : ShaChain) : (s.apply (.shaH v)).errcode = s.errcode := rfl
@[simp] theorem apply_shaH_cmd_eq (v : ShaChain) : (s.apply (.shaH v)).cmd = s.cmd := rfl
@[simp] theorem apply_shaH_pend_eq (v : ShaChain) : (s.apply (.shaH v)).pend = s.pend := rfl
@[simp] theorem apply_shaH_inLen_eq (v : ShaChain) : (s.apply (.shaH v)).inLen = s.inLen := rfl
@[simp] theorem apply_shaH_outLen_eq (v : ShaChain) : (s.apply (.shaH v)).outLen = s.outLen := rfl
@[simp] theorem apply_shaH_hrpLen_eq (v : ShaChain) : (s.apply (.shaH v)).hrpLen = s.hrpLen := rfl
@[simp] theorem apply_shaH_scrLen_eq (v : ShaChain) : (s.apply (.shaH v)).scrLen = s.scrLen := rfl
@[simp] theorem apply_shaH_result_eq (v : ShaChain) : (s.apply (.shaH v)).result = s.result := rfl
@[simp] theorem apply_shaH_shaH_eq (v : ShaChain) : (s.apply (.shaH v)).shaH = v := rfl
@[simp] theorem apply_shaH_rmdH_eq (v : ShaChain) : (s.apply (.shaH v)).rmdH = s.rmdH := rfl
@[simp] theorem apply_shaH_mem_eq (v : ShaChain) : (s.apply (.shaH v)).mem = s.mem := rfl
@[simp] theorem apply_shaH_resetIn_eq (v : ShaChain) : (s.apply (.shaH v)).resetIn = s.resetIn := rfl
@[simp] theorem apply_shaH_countdown_eq (v : ShaChain) : (s.apply (.shaH v)).countdown = s.countdown := rfl
@[simp] theorem apply_shaH_draws_eq (v : ShaChain) : (s.apply (.shaH v)).draws = s.draws := rfl
@[simp] theorem apply_shaH_host_eq (v : ShaChain) : (s.apply (.shaH v)).host = s.host := rfl
@[simp] theorem apply_shaH_answers_eq (v : ShaChain) : (s.apply (.shaH v)).answers = s.answers := rfl

@[simp] theorem apply_rmdH_ie_eq (v : RmdChain) : (s.apply (.rmdH v)).ie = s.ie := rfl
@[simp] theorem apply_rmdH_done_eq (v : RmdChain) : (s.apply (.rmdH v)).done = s.done := rfl
@[simp] theorem apply_rmdH_err_eq (v : RmdChain) : (s.apply (.rmdH v)).err = s.err := rfl
@[simp] theorem apply_rmdH_haz_eq (v : RmdChain) : (s.apply (.rmdH v)).haz = s.haz := rfl
@[simp] theorem apply_rmdH_errcode_eq (v : RmdChain) : (s.apply (.rmdH v)).errcode = s.errcode := rfl
@[simp] theorem apply_rmdH_cmd_eq (v : RmdChain) : (s.apply (.rmdH v)).cmd = s.cmd := rfl
@[simp] theorem apply_rmdH_pend_eq (v : RmdChain) : (s.apply (.rmdH v)).pend = s.pend := rfl
@[simp] theorem apply_rmdH_inLen_eq (v : RmdChain) : (s.apply (.rmdH v)).inLen = s.inLen := rfl
@[simp] theorem apply_rmdH_outLen_eq (v : RmdChain) : (s.apply (.rmdH v)).outLen = s.outLen := rfl
@[simp] theorem apply_rmdH_hrpLen_eq (v : RmdChain) : (s.apply (.rmdH v)).hrpLen = s.hrpLen := rfl
@[simp] theorem apply_rmdH_scrLen_eq (v : RmdChain) : (s.apply (.rmdH v)).scrLen = s.scrLen := rfl
@[simp] theorem apply_rmdH_result_eq (v : RmdChain) : (s.apply (.rmdH v)).result = s.result := rfl
@[simp] theorem apply_rmdH_shaH_eq (v : RmdChain) : (s.apply (.rmdH v)).shaH = s.shaH := rfl
@[simp] theorem apply_rmdH_rmdH_eq (v : RmdChain) : (s.apply (.rmdH v)).rmdH = v := rfl
@[simp] theorem apply_rmdH_mem_eq (v : RmdChain) : (s.apply (.rmdH v)).mem = s.mem := rfl
@[simp] theorem apply_rmdH_resetIn_eq (v : RmdChain) : (s.apply (.rmdH v)).resetIn = s.resetIn := rfl
@[simp] theorem apply_rmdH_countdown_eq (v : RmdChain) : (s.apply (.rmdH v)).countdown = s.countdown := rfl
@[simp] theorem apply_rmdH_draws_eq (v : RmdChain) : (s.apply (.rmdH v)).draws = s.draws := rfl
@[simp] theorem apply_rmdH_host_eq (v : RmdChain) : (s.apply (.rmdH v)).host = s.host := rfl
@[simp] theorem apply_rmdH_answers_eq (v : RmdChain) : (s.apply (.rmdH v)).answers = s.answers := rfl

@[simp] theorem finish_ie_eq (code : Byte) : (s.finish code).ie = s.ie := rfl
@[simp] theorem finish_done_eq (code : Byte) : (s.finish code).done = true := rfl
@[simp] theorem finish_err_eq (code : Byte) : (s.finish code).err = (code != 0) := rfl
@[simp] theorem finish_haz_eq (code : Byte) : (s.finish code).haz = s.haz := rfl
@[simp] theorem finish_errcode_eq (code : Byte) : (s.finish code).errcode = code := rfl
@[simp] theorem finish_cmd_eq (code : Byte) : (s.finish code).cmd = s.cmd := rfl
@[simp] theorem finish_pend_eq (code : Byte) : (s.finish code).pend = none := rfl
@[simp] theorem finish_inLen_eq (code : Byte) : (s.finish code).inLen = s.inLen := rfl
@[simp] theorem finish_outLen_eq (code : Byte) : (s.finish code).outLen = s.outLen := rfl
@[simp] theorem finish_hrpLen_eq (code : Byte) : (s.finish code).hrpLen = s.hrpLen := rfl
@[simp] theorem finish_scrLen_eq (code : Byte) : (s.finish code).scrLen = s.scrLen := rfl
@[simp] theorem finish_result_eq (code : Byte) : (s.finish code).result = s.result := rfl
@[simp] theorem finish_shaH_eq (code : Byte) : (s.finish code).shaH = s.shaH := rfl
@[simp] theorem finish_rmdH_eq (code : Byte) : (s.finish code).rmdH = s.rmdH := rfl
@[simp] theorem finish_mem_eq (code : Byte) : (s.finish code).mem = s.mem := rfl
@[simp] theorem finish_resetIn_eq (code : Byte) : (s.finish code).resetIn = s.resetIn := rfl
@[simp] theorem finish_countdown_eq (code : Byte) : (s.finish code).countdown = 0 := rfl
@[simp] theorem finish_draws_eq (code : Byte) : (s.finish code).draws = s.draws + 1 := rfl
@[simp] theorem finish_host_eq (code : Byte) : (s.finish code).host = s.host := rfl
@[simp] theorem finish_answers_eq (code : Byte) : (s.finish code).answers = s.answers := rfl

@[simp] theorem issue_ie_eq (v : Word) : (s.issue v).ie = s.ie := rfl
@[simp] theorem issue_done_eq (v : Word) : (s.issue v).done = false := rfl
@[simp] theorem issue_err_eq (v : Word) : (s.issue v).err = false := rfl
@[simp] theorem issue_haz_eq (v : Word) : (s.issue v).haz = s.haz := rfl
@[simp] theorem issue_errcode_eq (v : Word) : (s.issue v).errcode = 0 := rfl
@[simp] theorem issue_cmd_eq (v : Word) : (s.issue v).cmd = v := rfl
@[simp] theorem issue_pend_eq (v : Word) : (s.issue v).pend = some v := rfl
@[simp] theorem issue_inLen_eq (v : Word) : (s.issue v).inLen = s.inLen := rfl
@[simp] theorem issue_outLen_eq (v : Word) : (s.issue v).outLen = s.outLen := rfl
@[simp] theorem issue_hrpLen_eq (v : Word) : (s.issue v).hrpLen = s.hrpLen := rfl
@[simp] theorem issue_scrLen_eq (v : Word) : (s.issue v).scrLen = s.scrLen := rfl
@[simp] theorem issue_result_eq (v : Word) : (s.issue v).result = s.result := rfl
@[simp] theorem issue_shaH_eq (v : Word) : (s.issue v).shaH = s.shaH := rfl
@[simp] theorem issue_rmdH_eq (v : Word) : (s.issue v).rmdH = s.rmdH := rfl
@[simp] theorem issue_mem_eq (v : Word) : (s.issue v).mem = s.mem := rfl
@[simp] theorem issue_resetIn_eq (v : Word) : (s.issue v).resetIn = s.resetIn := rfl
@[simp] theorem issue_countdown_eq (v : Word) : (s.issue v).countdown = Config.latencyTail s.draws := rfl
@[simp] theorem issue_draws_eq (v : Word) : (s.issue v).draws = s.draws := rfl
@[simp] theorem issue_host_eq (v : Word) : (s.issue v).host = s.host := rfl
@[simp] theorem issue_answers_eq (v : Word) : (s.issue v).answers = s.answers := rfl

@[simp] theorem softReset_ie_eq : (s.softReset).ie = false := rfl
@[simp] theorem softReset_done_eq : (s.softReset).done = false := rfl
@[simp] theorem softReset_err_eq : (s.softReset).err = false := rfl
@[simp] theorem softReset_haz_eq : (s.softReset).haz = false := rfl
@[simp] theorem softReset_errcode_eq : (s.softReset).errcode = 0 := rfl
@[simp] theorem softReset_cmd_eq : (s.softReset).cmd = 0 := rfl
@[simp] theorem softReset_pend_eq : (s.softReset).pend = none := rfl
@[simp] theorem softReset_inLen_eq : (s.softReset).inLen = 0 := rfl
@[simp] theorem softReset_outLen_eq : (s.softReset).outLen = 0 := rfl
@[simp] theorem softReset_hrpLen_eq : (s.softReset).hrpLen = 0 := rfl
@[simp] theorem softReset_scrLen_eq : (s.softReset).scrLen = 0 := rfl
@[simp] theorem softReset_result_eq : (s.softReset).result = 0 := rfl
@[simp] theorem softReset_shaH_eq : (s.softReset).shaH = iv256 := rfl
@[simp] theorem softReset_rmdH_eq : (s.softReset).rmdH = iv160 := rfl
@[simp] theorem softReset_mem_eq : (s.softReset).mem = [] := rfl
@[simp] theorem softReset_resetIn_eq : (s.softReset).resetIn = s.resetIn := rfl
@[simp] theorem softReset_countdown_eq : (s.softReset).countdown = 0 := rfl
@[simp] theorem softReset_draws_eq : (s.softReset).draws = s.draws := rfl
@[simp] theorem softReset_host_eq : (s.softReset).host = s.host := rfl
@[simp] theorem softReset_answers_eq : (s.softReset).answers = s.answers := rfl

@[simp] theorem tick_ie_eq : (s.tick).ie = s.ie := rfl
@[simp] theorem tick_done_eq : (s.tick).done = s.done := rfl
@[simp] theorem tick_err_eq : (s.tick).err = s.err := rfl
@[simp] theorem tick_haz_eq : (s.tick).haz = s.haz := rfl
@[simp] theorem tick_errcode_eq : (s.tick).errcode = s.errcode := rfl
@[simp] theorem tick_cmd_eq : (s.tick).cmd = s.cmd := rfl
@[simp] theorem tick_pend_eq : (s.tick).pend = s.pend := rfl
@[simp] theorem tick_inLen_eq : (s.tick).inLen = s.inLen := rfl
@[simp] theorem tick_outLen_eq : (s.tick).outLen = s.outLen := rfl
@[simp] theorem tick_hrpLen_eq : (s.tick).hrpLen = s.hrpLen := rfl
@[simp] theorem tick_scrLen_eq : (s.tick).scrLen = s.scrLen := rfl
@[simp] theorem tick_result_eq : (s.tick).result = s.result := rfl
@[simp] theorem tick_shaH_eq : (s.tick).shaH = s.shaH := rfl
@[simp] theorem tick_rmdH_eq : (s.tick).rmdH = s.rmdH := rfl
@[simp] theorem tick_mem_eq : (s.tick).mem = s.mem := rfl
@[simp] theorem tick_resetIn_eq : (s.tick).resetIn = s.resetIn := rfl
@[simp] theorem tick_countdown_eq : (s.tick).countdown = s.countdown := rfl
@[simp] theorem tick_draws_eq : (s.tick).draws = s.draws + 1 := rfl
@[simp] theorem tick_host_eq : (s.tick).host = s.host := rfl
@[simp] theorem tick_answers_eq : (s.tick).answers = s.answers := rfl

@[simp] theorem dropWrite_ie_eq : (s.dropWrite).ie = s.ie := rfl
@[simp] theorem dropWrite_done_eq : (s.dropWrite).done = s.done := rfl
@[simp] theorem dropWrite_err_eq : (s.dropWrite).err = s.err := rfl
@[simp] theorem dropWrite_haz_eq : (s.dropWrite).haz = true := rfl
@[simp] theorem dropWrite_errcode_eq : (s.dropWrite).errcode = s.errcode := rfl
@[simp] theorem dropWrite_cmd_eq : (s.dropWrite).cmd = s.cmd := rfl
@[simp] theorem dropWrite_pend_eq : (s.dropWrite).pend = s.pend := rfl
@[simp] theorem dropWrite_inLen_eq : (s.dropWrite).inLen = s.inLen := rfl
@[simp] theorem dropWrite_outLen_eq : (s.dropWrite).outLen = s.outLen := rfl
@[simp] theorem dropWrite_hrpLen_eq : (s.dropWrite).hrpLen = s.hrpLen := rfl
@[simp] theorem dropWrite_scrLen_eq : (s.dropWrite).scrLen = s.scrLen := rfl
@[simp] theorem dropWrite_result_eq : (s.dropWrite).result = s.result := rfl
@[simp] theorem dropWrite_shaH_eq : (s.dropWrite).shaH = s.shaH := rfl
@[simp] theorem dropWrite_rmdH_eq : (s.dropWrite).rmdH = s.rmdH := rfl
@[simp] theorem dropWrite_mem_eq : (s.dropWrite).mem = s.mem := rfl
@[simp] theorem dropWrite_resetIn_eq : (s.dropWrite).resetIn = s.resetIn := rfl
@[simp] theorem dropWrite_countdown_eq : (s.dropWrite).countdown = s.countdown := rfl
@[simp] theorem dropWrite_draws_eq : (s.dropWrite).draws = s.draws := rfl
@[simp] theorem dropWrite_host_eq : (s.dropWrite).host = s.host := rfl
@[simp] theorem dropWrite_answers_eq : (s.dropWrite).answers = s.answers := rfl

@[simp] theorem writeStatus_ie_eq (v : Word) : (s.writeStatus v).ie = s.ie := rfl
@[simp] theorem writeStatus_done_eq (v : Word) : (s.writeStatus v).done = (s.done && !v.getLsbD 1) := rfl
@[simp] theorem writeStatus_err_eq (v : Word) : (s.writeStatus v).err = (s.err && !v.getLsbD 2) := rfl
@[simp] theorem writeStatus_haz_eq (v : Word) : (s.writeStatus v).haz = (s.haz && !v.getLsbD 3) := rfl
@[simp] theorem writeStatus_errcode_eq (v : Word) : (s.writeStatus v).errcode = s.errcode := rfl
@[simp] theorem writeStatus_cmd_eq (v : Word) : (s.writeStatus v).cmd = s.cmd := rfl
@[simp] theorem writeStatus_pend_eq (v : Word) : (s.writeStatus v).pend = s.pend := rfl
@[simp] theorem writeStatus_inLen_eq (v : Word) : (s.writeStatus v).inLen = s.inLen := rfl
@[simp] theorem writeStatus_outLen_eq (v : Word) : (s.writeStatus v).outLen = s.outLen := rfl
@[simp] theorem writeStatus_hrpLen_eq (v : Word) : (s.writeStatus v).hrpLen = s.hrpLen := rfl
@[simp] theorem writeStatus_scrLen_eq (v : Word) : (s.writeStatus v).scrLen = s.scrLen := rfl
@[simp] theorem writeStatus_result_eq (v : Word) : (s.writeStatus v).result = s.result := rfl
@[simp] theorem writeStatus_shaH_eq (v : Word) : (s.writeStatus v).shaH = s.shaH := rfl
@[simp] theorem writeStatus_rmdH_eq (v : Word) : (s.writeStatus v).rmdH = s.rmdH := rfl
@[simp] theorem writeStatus_mem_eq (v : Word) : (s.writeStatus v).mem = s.mem := rfl
@[simp] theorem writeStatus_resetIn_eq (v : Word) : (s.writeStatus v).resetIn = s.resetIn := rfl
@[simp] theorem writeStatus_countdown_eq (v : Word) : (s.writeStatus v).countdown = s.countdown := rfl
@[simp] theorem writeStatus_draws_eq (v : Word) : (s.writeStatus v).draws = s.draws := rfl
@[simp] theorem writeStatus_host_eq (v : Word) : (s.writeStatus v).host = s.host := rfl
@[simp] theorem writeStatus_answers_eq (v : Word) : (s.writeStatus v).answers = s.answers := rfl

@[simp] theorem storeWord_ie_eq (b : Buf) (k : Nat) (v : Word) : (s.storeWord b k v).ie = s.ie := rfl
@[simp] theorem storeWord_done_eq (b : Buf) (k : Nat) (v : Word) : (s.storeWord b k v).done = s.done := rfl
@[simp] theorem storeWord_err_eq (b : Buf) (k : Nat) (v : Word) : (s.storeWord b k v).err = s.err := rfl
@[simp] theorem storeWord_haz_eq (b : Buf) (k : Nat) (v : Word) : (s.storeWord b k v).haz = s.haz := rfl
@[simp] theorem storeWord_errcode_eq (b : Buf) (k : Nat) (v : Word) : (s.storeWord b k v).errcode = s.errcode := rfl
@[simp] theorem storeWord_cmd_eq (b : Buf) (k : Nat) (v : Word) : (s.storeWord b k v).cmd = s.cmd := rfl
@[simp] theorem storeWord_pend_eq (b : Buf) (k : Nat) (v : Word) : (s.storeWord b k v).pend = s.pend := rfl
@[simp] theorem storeWord_inLen_eq (b : Buf) (k : Nat) (v : Word) : (s.storeWord b k v).inLen = s.inLen := rfl
@[simp] theorem storeWord_outLen_eq (b : Buf) (k : Nat) (v : Word) : (s.storeWord b k v).outLen = s.outLen := rfl
@[simp] theorem storeWord_hrpLen_eq (b : Buf) (k : Nat) (v : Word) : (s.storeWord b k v).hrpLen = s.hrpLen := rfl
@[simp] theorem storeWord_scrLen_eq (b : Buf) (k : Nat) (v : Word) : (s.storeWord b k v).scrLen = s.scrLen := rfl
@[simp] theorem storeWord_result_eq (b : Buf) (k : Nat) (v : Word) : (s.storeWord b k v).result = s.result := rfl
@[simp] theorem storeWord_shaH_eq (b : Buf) (k : Nat) (v : Word) : (s.storeWord b k v).shaH = s.shaH := rfl
@[simp] theorem storeWord_rmdH_eq (b : Buf) (k : Nat) (v : Word) : (s.storeWord b k v).rmdH = s.rmdH := rfl
@[simp] theorem storeWord_mem_eq (b : Buf) (k : Nat) (v : Word) : (s.storeWord b k v).mem = s.mem.setBufs b (4 * k) [some (Word.byte v 0), some (Word.byte v 1), some (Word.byte v 2), some (Word.byte v 3)] := rfl
@[simp] theorem storeWord_resetIn_eq (b : Buf) (k : Nat) (v : Word) : (s.storeWord b k v).resetIn = s.resetIn := rfl
@[simp] theorem storeWord_countdown_eq (b : Buf) (k : Nat) (v : Word) : (s.storeWord b k v).countdown = s.countdown := rfl
@[simp] theorem storeWord_draws_eq (b : Buf) (k : Nat) (v : Word) : (s.storeWord b k v).draws = s.draws := rfl
@[simp] theorem storeWord_host_eq (b : Buf) (k : Nat) (v : Word) : (s.storeWord b k v).host = s.host := rfl
@[simp] theorem storeWord_answers_eq (b : Buf) (k : Nat) (v : Word) : (s.storeWord b k v).answers = s.answers := rfl

@[simp] theorem okWith_ie_eq (m : Memory) : (s.okWith m).ie = s.ie := rfl
@[simp] theorem okWith_done_eq (m : Memory) : (s.okWith m).done = true := rfl
@[simp] theorem okWith_err_eq (m : Memory) : (s.okWith m).err = false := rfl
@[simp] theorem okWith_haz_eq (m : Memory) : (s.okWith m).haz = s.haz := rfl
@[simp] theorem okWith_errcode_eq (m : Memory) : (s.okWith m).errcode = 0 := rfl
@[simp] theorem okWith_cmd_eq (m : Memory) : (s.okWith m).cmd = s.cmd := rfl
@[simp] theorem okWith_pend_eq (m : Memory) : (s.okWith m).pend = none := rfl
@[simp] theorem okWith_inLen_eq (m : Memory) : (s.okWith m).inLen = s.inLen := rfl
@[simp] theorem okWith_outLen_eq (m : Memory) : (s.okWith m).outLen = s.outLen := rfl
@[simp] theorem okWith_hrpLen_eq (m : Memory) : (s.okWith m).hrpLen = s.hrpLen := rfl
@[simp] theorem okWith_scrLen_eq (m : Memory) : (s.okWith m).scrLen = s.scrLen := rfl
@[simp] theorem okWith_result_eq (m : Memory) : (s.okWith m).result = s.result := rfl
@[simp] theorem okWith_shaH_eq (m : Memory) : (s.okWith m).shaH = s.shaH := rfl
@[simp] theorem okWith_rmdH_eq (m : Memory) : (s.okWith m).rmdH = s.rmdH := rfl
@[simp] theorem okWith_mem_eq (m : Memory) : (s.okWith m).mem = m := rfl
@[simp] theorem okWith_resetIn_eq (m : Memory) : (s.okWith m).resetIn = s.resetIn := rfl
@[simp] theorem okWith_countdown_eq (m : Memory) : (s.okWith m).countdown = 0 := rfl
@[simp] theorem okWith_draws_eq (m : Memory) : (s.okWith m).draws = s.draws + 1 := rfl
@[simp] theorem okWith_host_eq (m : Memory) : (s.okWith m).host = s.host := rfl
@[simp] theorem okWith_answers_eq (m : Memory) : (s.okWith m).answers = s.answers := rfl

@[simp] theorem failed_ie_eq (e : ErrCode) : (s.failed e).ie = s.ie := rfl
@[simp] theorem failed_done_eq (e : ErrCode) : (s.failed e).done = true := rfl
@[simp] theorem failed_err_eq (e : ErrCode) : (s.failed e).err = true := rfl
@[simp] theorem failed_haz_eq (e : ErrCode) : (s.failed e).haz = s.haz := rfl
@[simp] theorem failed_errcode_eq (e : ErrCode) : (s.failed e).errcode = e.code := rfl
@[simp] theorem failed_cmd_eq (e : ErrCode) : (s.failed e).cmd = s.cmd := rfl
@[simp] theorem failed_pend_eq (e : ErrCode) : (s.failed e).pend = none := rfl
@[simp] theorem failed_inLen_eq (e : ErrCode) : (s.failed e).inLen = s.inLen := rfl
@[simp] theorem failed_outLen_eq (e : ErrCode) : (s.failed e).outLen = s.outLen := rfl
@[simp] theorem failed_hrpLen_eq (e : ErrCode) : (s.failed e).hrpLen = s.hrpLen := rfl
@[simp] theorem failed_scrLen_eq (e : ErrCode) : (s.failed e).scrLen = s.scrLen := rfl
@[simp] theorem failed_result_eq (e : ErrCode) : (s.failed e).result = s.result := rfl
@[simp] theorem failed_shaH_eq (e : ErrCode) : (s.failed e).shaH = s.shaH := rfl
@[simp] theorem failed_rmdH_eq (e : ErrCode) : (s.failed e).rmdH = s.rmdH := rfl
@[simp] theorem failed_mem_eq (e : ErrCode) : (s.failed e).mem = s.mem := rfl
@[simp] theorem failed_resetIn_eq (e : ErrCode) : (s.failed e).resetIn = s.resetIn := rfl
@[simp] theorem failed_countdown_eq (e : ErrCode) : (s.failed e).countdown = 0 := rfl
@[simp] theorem failed_draws_eq (e : ErrCode) : (s.failed e).draws = s.draws + 1 := rfl
@[simp] theorem failed_host_eq (e : ErrCode) : (s.failed e).host = s.host := rfl
@[simp] theorem failed_answers_eq (e : ErrCode) : (s.failed e).answers = s.answers := rfl

end Sys2Proof.Machine
end

