-- ==== Sys2Proof/Laws/Memory.lean ====
section
/-! SUPPORT. Read after write for memory and the buffers, and that every memory operation keeps the canonical form. -/

namespace Sys2Proof.Machine

open Sys2Proof

/-- An address below every listed one is not listed. -/
theorem Memory.read_of_lt (m : Memory) (a : Nat) (h : ∀ c ∈ m, a < c.1) : Memory.read m a = none := by
  induction m with
  | nil => rfl
  | cons c m ih =>
    have hc := h c (by simp)
    have ih := ih fun d hd => h d (by simp [hd])
    simp only [Memory.read, ih]
    simp [Nat.ne_of_gt hc]

/-- What an address reads as after a set, in a memory whose addresses rise. -/
theorem Memory.read_set (m : Memory) (hm : m.Pairwise fun x y => x.1 < y.1) (a : Nat) (c : Option Byte) (x : Nat) :
    Memory.read (Memory.set m a c) x = if x = a then c else Memory.read m x := by
  induction m with
  | nil => cases c <;> simp [Memory.set, Memory.read, eq_comm]
  | cons d m ih =>
    obtain ⟨k, v⟩ := d
    obtain ⟨hd, hm'⟩ := List.pairwise_cons.1 hm
    have ih := ih hm'
    simp only [Memory.set]
    split
    · rename_i hk
      simp only [Memory.read, ih]
      by_cases hx : x = a
      · subst hx; simp [Nat.ne_of_lt hk]
      · simp [hx]
    · split
      · rename_i _ hk
        subst hk
        have hn := Memory.read_of_lt m k fun d hd' => hd d hd'
        by_cases hx : x = k
        · subst hx; cases c <;> simp [Memory.read, hn]
        · cases c <;> simp [Memory.read, hx, Ne.symm hx]
      · rename_i hk hne
        have hn : Memory.read m a = none :=
          Memory.read_of_lt m a fun d hd' => lt_trans (by omega) (hd d hd')
        by_cases hx : x = a
        · subst hx; cases c <;> simp [Memory.read, hn, hne]
        · cases c <;> simp [Memory.read, hx, Ne.symm hx]

/-- Every address of a memory after a set is the one set or was listed before. -/
theorem Memory.mem_set (m : Memory) (a : Nat) (c : Option Byte) (x : Host.Cell) (h : x ∈ Memory.set m a c) :
    x.1 = a ∨ x ∈ m := by
  induction m with
  | nil => cases c <;> simp_all [Memory.set]
  | cons d m ih =>
    obtain ⟨k, v⟩ := d
    simp only [Memory.set] at h
    split at h
    · rcases List.mem_cons.1 h with rfl | h
      · simp
      · rcases ih h with h | h <;> simp [h]
    · split at h
      · cases c <;> simp_all
        rcases h with rfl | h <;> simp [*]
      · cases c <;> simp_all
        rcases h with rfl | h <;> simp [*]

/-- A set keeps the addresses rising. -/
theorem Memory.set_sorted (m : Memory) (hm : m.Pairwise fun x y => x.1 < y.1) (a : Nat) (c : Option Byte) :
    (Memory.set m a c).Pairwise fun x y => x.1 < y.1 := by
  induction m with
  | nil => cases c <;> simp [Memory.set]
  | cons d m ih =>
    obtain ⟨k, v⟩ := d
    obtain ⟨hd, hm'⟩ := List.pairwise_cons.1 hm
    simp only [Memory.set]
    split
    · rename_i hk
      refine List.pairwise_cons.2 ⟨fun x hx => ?_, ih hm'⟩
      rcases Memory.mem_set m a c x hx with h | h
      · exact h ▸ hk
      · exact hd x h
    · split
      · rename_i _ hk
        subst hk
        cases c
        · exact hm'
        · exact List.pairwise_cons.2 ⟨hd, hm'⟩
      · rename_i hk hne
        cases c
        · exact hm
        · refine List.pairwise_cons.2 ⟨fun x hx => ?_, hm⟩
          have hak : a < k := by omega
          rcases List.mem_cons.1 hx with rfl | hx
          · exact hak
          · exact lt_trans hak (hd x hx)

/-- The addresses of buffer bytes. -/
theorem bufferAddr_iff (a : Nat) : bufferAddr a = true ↔ ∃ b : Buf, b.base ≤ a ∧ a < b.base + b.cap := by
  simp only [bufferAddr, List.any_eq_true, Bool.and_eq_true, decide_eq_true_eq]
  constructor
  · rintro ⟨b, -, h⟩; exact ⟨b, h⟩
  · rintro ⟨b, h⟩; exact ⟨b, by cases b <;> simp, h⟩

/-- Every byte of a buffer has a buffer address. -/
theorem bufferAddr_base (b : Buf) (i : Nat) (h : i < b.cap) : bufferAddr (b.base + i) = true :=
  (bufferAddr_iff _).2 ⟨b, by omega, by omega⟩

/-- A buffer byte set keeps the canonical form. -/
theorem Memory.wf_setBuf (m : Memory) (hm : m.wf) (b : Buf) (i : Nat) (c : Option Byte) : (m.setBuf b i c).wf := by
  unfold Memory.setBuf
  split
  · rename_i h
    refine ⟨Memory.set_sorted m hm.1 _ c, fun x hx => ?_⟩
    rcases Memory.mem_set m _ c x hx with h' | h'
    · exact h' ▸ bufferAddr_base b i h
    · exact hm.2 x h'
  · exact hm

/-- Consecutive buffer bytes set keep the canonical form. -/
theorem Memory.wf_setBufs (m : Memory) (hm : m.wf) (b : Buf) (i : Nat) (cs : List (Option Byte)) :
    (m.setBufs b i cs).wf := by
  induction cs generalizing m i with
  | nil => exact hm
  | cons c cs ih => exact ih _ (m.wf_setBuf hm b i c) _

/-- Reset memory is in its canonical form. -/
theorem Memory.wf_nil : Memory.wf [] := by simp [Memory.wf]

/-- What an address reads as after a buffer byte is set. -/
theorem Memory.read_setBuf (m : Memory) (hm : m.wf) (b : Buf) (i : Nat) (c : Option Byte) (x : Nat) :
    Memory.read (m.setBuf b i c) x = if i < b.cap ∧ x = b.base + i then c else Memory.read m x := by
  unfold Memory.setBuf
  split
  · rename_i h; rw [Memory.read_set m hm.1]; simp [h]
  · rename_i h; simp [h]

/-- What an address reads as after consecutive buffer bytes within the buffer are set. -/
theorem Memory.read_setBufs (m : Memory) (hm : m.wf) (b : Buf) (i : Nat) (cs : List (Option Byte))
    (hc : i + cs.length ≤ b.cap) (x : Nat) :
    Memory.read (m.setBufs b i cs) x =
      if b.base + i ≤ x ∧ x < b.base + i + cs.length then cs.getD (x - (b.base + i)) none else Memory.read m x := by
  induction cs generalizing m i with
  | nil => simp only [Memory.setBufs, List.length_nil, Nat.add_zero]; rw [if_neg (by omega)]
  | cons c cs ih =>
    simp only [List.length_cons] at hc
    rw [Memory.setBufs, ih _ (m.wf_setBuf hm b i c) (i + 1) (by omega), Memory.read_setBuf m hm]
    by_cases h0 : x = b.base + i
    · subst h0
      have h1 : ¬ (b.base + (i + 1) ≤ b.base + i) := by omega
      have h2 : i < b.cap := by omega
      simp [h2]
    · by_cases h1 : b.base + (i + 1) ≤ x ∧ x < b.base + (i + 1) + cs.length
      · have h2 : b.base + i ≤ x ∧ x < b.base + i + (c :: cs).length := by simp only [List.length_cons]; omega
        have h3 : x - (b.base + i) = (x - (b.base + (i + 1))) + 1 := by omega
        rw [if_pos h1, if_pos h2, h3, List.getD_cons_succ]
      · have h2 : ¬ (b.base + i ≤ x ∧ x < b.base + i + (c :: cs).length) := by simp only [List.length_cons]; omega
        rw [if_neg h1, if_neg h2]
        simp [h0]

/-- What an address reads as after a known byte is set, in any memory. -/
theorem Memory.read_set_some (m : Memory) (a : Nat) (b : Byte) (x : Nat) :
    Memory.read (Memory.set m a (some b)) x = if x = a then some b else Memory.read m x := by
  induction m with
  | nil => simp [Memory.set, Memory.read, eq_comm]
  | cons d m ih =>
    obtain ⟨k, v⟩ := d
    by_cases hx : x = a
    · subst hx
      simp only [Memory.set]
      split
      · rename_i hk
        simp [Memory.read, ih, Nat.ne_of_lt hk]
      · split <;> simp [Memory.read]
    · simp only [Memory.set]
      split
      · simp [Memory.read, ih, hx]
      · split
        · rename_i _ hk
          subst hk
          simp [Memory.read, Ne.symm hx]
        · simp [Memory.read, Ne.symm hx]

/-- A write of known bytes within a buffer is `Wrote`, in any memory. -/
theorem wrote_setBufs (m : Memory) (b : Buf) (i : Nat) (t : List Byte) (hc : i + t.length ≤ b.cap) :
    Wrote m (m.setBufs b i (t.map some)) b i t := by
  induction t generalizing m i with
  | nil => intro a; simp only [List.map_nil, Memory.setBufs, List.length_nil, Nat.add_zero]; rw [if_neg (by omega)]
  | cons c cs ih =>
    intro a
    simp only [List.length_cons] at hc ⊢
    rw [List.map_cons, Memory.setBufs, ih _ (i + 1) (by omega) a, Memory.setBuf, if_pos (by omega : i < b.cap),
      Memory.read_set_some]
    by_cases h0 : a = b.base + i
    · subst h0
      rw [if_neg (by omega), if_pos rfl, if_pos (by omega)]
      simp
    · by_cases h1 : b.base + (i + 1) ≤ a ∧ a < b.base + (i + 1) + cs.length
      · have h3 : a - (b.base + i) = (a - (b.base + (i + 1))) + 1 := by omega
        rw [if_pos h1, if_pos (by omega), h3, List.getElem?_cons_succ]
      · rw [if_neg h1, if_neg h0, if_neg (by omega)]

end Sys2Proof.Machine
end

