-- ==== Sys2Proof/Laws/Ops.lean ====
section
/-! SUPPORT. One lemma per shared operation of a command: its operands, and what its completion step leaves. -/

namespace Sys2Proof.Machine

open Sys2Proof

/-- Every error code is a number other than 0, so an erring completion sets ERR. -/
theorem ErrCode.code_ne_zero (e : ErrCode) : e.code ≠ 0 := by cases e <;> decide

/-- The codes are 1 to 13 (R240). -/
theorem ErrCode.code_le (e : ErrCode) : e.code.toNat ≤ 13 := by cases e <;> decide

/-- Different errors have different codes. -/
theorem ErrCode.code_injective (e f : ErrCode) (h : e.code = f.code) : e = f := by
  revert h; cases e <;> cases f <;> decide

/-- A completion step with an error is `failed`. -/
theorem completed_error (s : State) (e : ErrCode) : s.completed (.error e) = s.failed e := by
  have h : (e.code != 0) = true := bne_iff_ne.2 e.code_ne_zero
  simp only [State.completed, State.finish, State.failed, h]

/-- A completion step with updates applies them and finishes with code 0. -/
theorem completed_ok (s : State) (u : List Update) : s.completed (.ok u) = (s.applyAll u).finish 0 := rfl

/-- Finishing with code 0 a state that differs in memory only. -/
theorem finish_zero (s : State) (m : Memory) : State.finish { s with mem := m } 0 = s.okWith m := rfl

/-- The completion step of a command that produces bytes. -/
theorem completed_outBytes (s : State) (t : List Byte) :
    s.completed (.ok (outBytes t)) =
      { s.okWith (s.mem.setBufs .out 0 (t.map some)) with outLen := BitVec.ofNat 16 t.length } := rfl

/-- The command's `Exec` answered bytes for OUT, which OUT holds: the claim `CompletesWithOutput`. -/
theorem completesWithOutput_of (i : Instr) (s : State) (t : List Byte) (hl : t.length ≤ Config.outCap)
    (h : exec i s = s.complete (.ok (outBytes t))) : CompletesWithOutput i s t :=
  ⟨hl, s.mem.setBufs .out 0 (t.map some), by rw [h, State.complete, completed_outBytes],
    wrote_setBufs _ _ _ _ (by simpa [Buf.cap] using hl)⟩

/-- The command's `Exec` answered an error: the claim `FailsWith`. -/
theorem failsWith_of (i : Instr) (s : State) (e : ErrCode) (h : exec i s = s.complete (.error e)) : FailsWith i s e := by
  rw [FailsWith, h, State.complete, completed_error]

/-- `InBytes()` where IN_LEN is in range. -/
theorem withIn_ok (s : State) (h : s.InOk) (k : List Byte → Except ErrCode (List Update)) : s.withIn k = k s.input := by
  unfold State.withIn State.inBytes
  rw [if_neg (Nat.not_lt.2 h)]
  rfl

/-- `InBytes()` where IN_LEN is out of range. -/
theorem withIn_error (s : State) (h : ¬ s.InOk) (k : List Byte → Except ErrCode (List Update)) :
    s.withIn k = .error .lengthRange := by
  unfold State.withIn State.inBytes
  rw [if_pos (Nat.not_le.1 h)]

/-- `HrpBytes()` where HRP is valid. -/
theorem withHrp_ok (s : State) (h : s.HrpInOk) (k : List Byte → Except ErrCode (List Update)) :
    s.withHrp k = k s.hrpInput := by
  obtain ⟨h1, h2, h3⟩ := h
  unfold State.withHrp State.hrpBytes
  rw [if_neg (by omega), if_neg (by simpa [State.hrpInput] using h3)]
  rfl

/-- `HrpBytes()` where HRP is not valid. -/
theorem withHrp_error (s : State) (h : ¬ s.HrpInOk) (k : List Byte → Except ErrCode (List Update)) :
    s.withHrp k = .error .invalidHRP := by
  unfold State.withHrp State.hrpBytes
  by_cases h1 : s.hrpLen.toNat = 0 ∨ s.hrpLen.toNat > Config.hrpCap
  · rw [if_pos h1]
  · have h2 : hrpOk (s.bufBytes .hrp s.hrpLen.toNat) = false := by
      by_contra h2
      exact h ⟨by omega, by omega, by simpa [State.hrpInput] using h2⟩
    rw [if_neg h1, if_pos h2]

/-- The input has IN_LEN bytes. -/
@[simp] theorem input_length (s : State) : s.input.length = s.inLen.toNat := by simp [State.input, State.bufBytes]

/-- The HRP operand has HRP_LEN bytes. -/
@[simp] theorem hrpInput_length (s : State) : s.hrpInput.length = s.hrpLen.toNat := by simp [State.hrpInput, State.bufBytes]

/-- A byte with a known value is seen as that value (R33). -/
theorem byteAt_known (s : State) (b : Buf) (i : Nat) (v : Byte) (h : s.mem.read (b.base + i) = some v) : s.byteAt b i = v := by
  simp [State.byteAt, h]

/-- What every completion step leaves of the state beside its updates (R244). -/
theorem completed_status (s : State) (r : Except ErrCode (List Update)) :
    (s.completed r).pend = none ∧ (s.completed r).done = true ∧ (s.completed r).countdown = 0 ∧
      (s.completed r).err = ((s.completed r).errcode != 0) := by
  cases r <;> simp [State.completed]

/-- No update of a command changes CTRL, HAZ, CMD, the reset input, the draw number or anything outside the block. -/
theorem applyAll_frame (s : State) (u : List Update) :
    (s.applyAll u).ie = s.ie ∧ (s.applyAll u).haz = s.haz ∧ (s.applyAll u).cmd = s.cmd ∧
      (s.applyAll u).resetIn = s.resetIn ∧ (s.applyAll u).draws = s.draws ∧ (s.applyAll u).host = s.host ∧
      (s.applyAll u).answers = s.answers := by
  induction u generalizing s with
  | nil => simp [State.applyAll]
  | cons x u ih =>
    have h := ih (s.apply x)
    simp only [State.applyAll, List.foldl_cons] at h ⊢
    cases x <;> simpa using h

/-- Every command's arm is one completion step. -/
theorem exec_completed (i : Instr) (s : State) : ∃ r, exec i s = .next (s.completed r) := by
  cases i <;> exact ⟨_, rfl⟩

end Sys2Proof.Machine
end

