-- ==== Sys2Proof/Laws/Bus.lean ====
section
/-! SUPPORT. What one bus access does, by what stands at its offset. -/

namespace Sys2Proof.Machine

open Sys2Proof

/-- An access while reset is asserted. -/
theorem access_noAnswer (s : State) (a : BusAccess) (hr : s.resetIn = true) :
    s.access a = { s with answers := .noAnswer :: s.answers, draws := s.draws + 1 } := by
  simp [State.access, State.accessResult, hr]

/-- A read that reaches nothing. -/
theorem access_read_none (s : State) (width : Width) (off : Nat) (hr : s.resetIn = false) (ht : target width off = none) :
    s.access (.read width off) = { s with answers := .busError :: s.answers, draws := s.draws + 1 } := by
  simp [State.access, State.accessResult, hr, ht]

/-- A write that reaches nothing. -/
theorem access_write_none (s : State) (width : Width) (off : Nat) (v : Word) (hr : s.resetIn = false) (ht : target width off = none) :
    s.access (.write width off v) = { s with answers := .busError :: s.answers, draws := s.draws + 1 } := by
  simp [State.access, State.accessResult, hr, ht]

/-- A read of what stands at an offset. -/
theorem access_read_some (s : State) (off : Nat) (l : Loc) (hr : s.resetIn = false) (ht : locate off = some l) :
    s.access (.read .w32 off) = { s with answers := .data (s.readLoc l) :: s.answers, draws := s.draws + 1 } := by
  simp [State.access, State.accessResult, hr, target, ht]

/-- A write of what stands at an offset. -/
theorem access_write_some (s : State) (off : Nat) (l : Loc) (v : Word) (hr : s.resetIn = false) (ht : locate off = some l) :
    s.access (.write .w32 off v) =
      { s.writeLoc l v with answers := .ok :: (s.writeLoc l v).answers, draws := (s.writeLoc l v).draws + 1 } := by
  simp [State.access, State.accessResult, hr, target, ht]

/-- A read leaves all but the answers and the draw number. -/
theorem access_read (s : State) (width : Width) (off : Nat) :
    ∃ ans, s.access (.read width off) = { s with answers := ans :: s.answers, draws := s.draws + 1 } := by
  rcases Bool.eq_false_or_eq_true s.resetIn with hr | hr
  · exact ⟨_, access_noAnswer s _ hr⟩
  · cases ht : target width off with
    | none => exact ⟨_, access_read_none s width off hr ht⟩
    | some l => exact ⟨.data (s.readLoc l), by simp [State.access, State.accessResult, hr, ht]⟩

/-- What a read gives where a draw has no part in its class. -/
theorem readLoc_exact (s : State) (l : Loc) (h : s.busy = false ∨ l.cls ≠ .output) : s.readLoc l = s.value l := by
  unfold State.readLoc
  rcases h with h | h <;> simp [h]

/-- What a read of output-class state gives while a command runs. -/
theorem readLoc_draw (s : State) (l : Loc) (hb : s.busy = true) (h : l.cls = .output) : s.readLoc l = Config.freeWord s.draws := by
  simp [State.readLoc, hb, h]

/-- A write that is dropped. -/
theorem writeLoc_dropped (s : State) (l : Loc) (v : Word) (hb : s.busy = true) (h : l.cls = .input) : s.writeLoc l v = s.dropWrite := by
  simp [State.writeLoc, hb, h]

/-- A write that is not dropped. -/
theorem writeLoc_stored (s : State) (l : Loc) (v : Word) (h : s.busy = false ∨ l.cls ≠ .input) : s.writeLoc l v = s.storeLoc l v := by
  unfold State.writeLoc
  rcases h with h | h <;> simp [h]

/-- What a write changes at most: everything a write can do is one of these (20_memory.md R65, R70). -/
theorem writeLoc_cases (s : State) (l : Loc) (v : Word) :
    s.writeLoc l v = s ∨ (l = .ctrl ∧ v.getLsbD 1 = true ∧ s.writeLoc l v = s.softReset) ∨
    (l = .ctrl ∧ v.getLsbD 1 = false ∧ s.writeLoc l v = { s with ie := v.getLsbD 0 }) ∨
    (l = .status ∧ s.writeLoc l v = s.writeStatus v) ∨
    (s.busy = true ∧ l.cls = .input ∧ s.writeLoc l v = s.dropWrite) ∨
    (s.busy = false ∧ l = .cmd ∧ s.writeLoc l v = s.issue v) ∨
    (s.busy = false ∧ l = .inLen ∧ s.writeLoc l v = { s with inLen := v.setWidth 16 }) ∨
    (s.busy = false ∧ l = .hrpLen ∧ s.writeLoc l v = { s with hrpLen := v.setWidth 8 }) ∨
    (s.busy = false ∧ (∃ k, l = .buf .inb k ∧ s.writeLoc l v = s.storeWord .inb k v)) ∨
    (s.busy = false ∧ (∃ k, l = .buf .hrp k ∧ s.writeLoc l v = s.storeWord .hrp k v)) := by
  rcases Bool.eq_false_or_eq_true s.busy with hb | hb <;> rcases Bool.eq_false_or_eq_true (v.getLsbD 1) with hv | hv <;>
    cases l <;> simp only [State.writeLoc, State.storeLoc, Loc.cls, hb, hv] <;> try simp
  all_goals rename_i b k; cases b <;> simp

/-- Where what a location names stands in the window (R62). -/
def Loc.off : Loc → Nat
  | .id => 0x000
  | .hwver => 0x004
  | .ctrl => 0x008
  | .status => 0x00C
  | .cmd => 0x010
  | .inLen => 0x014
  | .outLen => 0x018
  | .hrpLen => 0x01C
  | .scrLen => 0x020
  | .result => 0x024
  | .shaH i => 0x040 + 4 * i
  | .rmdH i => 0x060 + 4 * i
  | .buf b k => b.base + 4 * k

/-- What stands at an offset stands at no other. -/
theorem locate_off (off : Nat) (l : Loc) (h : locate off = some l) : off = l.off := by
  unfold locate at h
  by_cases h0 : off % 4 ≠ 0 ∨ off ≥ Config.window
  · rw [if_pos h0] at h; cases h
  rw [if_neg h0] at h
  have hm : off % 4 = 0 := by omega
  by_cases h1 : off = 0x000
  · rw [if_pos h1] at h; cases h; exact h1
  rw [if_neg h1] at h
  by_cases h2 : off = 0x004
  · rw [if_pos h2] at h; cases h; exact h2
  rw [if_neg h2] at h
  by_cases h3 : off = 0x008
  · rw [if_pos h3] at h; cases h; exact h3
  rw [if_neg h3] at h
  by_cases h4 : off = 0x00C
  · rw [if_pos h4] at h; cases h; exact h4
  rw [if_neg h4] at h
  by_cases h5 : off = 0x010
  · rw [if_pos h5] at h; cases h; exact h5
  rw [if_neg h5] at h
  by_cases h6 : off = 0x014
  · rw [if_pos h6] at h; cases h; exact h6
  rw [if_neg h6] at h
  by_cases h7 : off = 0x018
  · rw [if_pos h7] at h; cases h; exact h7
  rw [if_neg h7] at h
  by_cases h8 : off = 0x01C
  · rw [if_pos h8] at h; cases h; exact h8
  rw [if_neg h8] at h
  by_cases h9 : off = 0x020
  · rw [if_pos h9] at h; cases h; exact h9
  rw [if_neg h9] at h
  by_cases h10 : off = 0x024
  · rw [if_pos h10] at h; cases h; exact h10
  rw [if_neg h10] at h
  by_cases h11 : 0x040 ≤ off ∧ off < 0x060
  · rw [if_pos h11] at h; cases h; simp only [Loc.off]; omega
  rw [if_neg h11] at h
  by_cases h12 : 0x060 ≤ off ∧ off < 0x074
  · rw [if_pos h12] at h; cases h; simp only [Loc.off]; omega
  rw [if_neg h12] at h
  by_cases h13 : 0x100 ≤ off ∧ off < 0x200
  · rw [if_pos h13] at h; cases h; simp only [Loc.off, Buf.base]; omega
  rw [if_neg h13] at h
  by_cases h14 : 0x200 ≤ off ∧ off < 0x400
  · rw [if_pos h14] at h; cases h; simp only [Loc.off, Buf.base]; omega
  rw [if_neg h14] at h
  by_cases h15 : 0x400 ≤ off ∧ off < 0x454
  · rw [if_pos h15] at h; cases h; simp only [Loc.off, Buf.base]; omega
  rw [if_neg h15] at h
  by_cases h16 : 0x500 ≤ off ∧ off < 0x600
  · rw [if_pos h16] at h; cases h; simp only [Loc.off, Buf.base]; omega
  rw [if_neg h16] at h
  cases h

/-- Every word of a buffer is found at its offset. -/
theorem locate_buf (b : Buf) (k : Nat) (h : 4 * k < b.cap) : locate (b.base + 4 * k) = some (.buf b k) := by
  have hi : ∀ k < 64, locate (Buf.inb.base + 4 * k) = some (.buf .inb k) := by decide +kernel
  have ho : ∀ k < 128, locate (Buf.out.base + 4 * k) = some (.buf .out k) := by decide +kernel
  have hh : ∀ k < 21, locate (Buf.hrp.base + 4 * k) = some (.buf .hrp k) := by decide +kernel
  have hs : ∀ k < 64, locate (Buf.scr.base + 4 * k) = some (.buf .scr k) := by decide +kernel
  cases b <;> simp only [Buf.cap, Config.inCap, Config.outCap, Config.hrpCap, Config.scrCap] at h
  · exact hi k (by omega)
  · exact ho k (by omega)
  · exact hh k (by omega)
  · exact hs k (by omega)

/-- Every word of the SHA-256 chaining value is found at its offset. -/
theorem locate_shaH : ∀ i < 8, locate (0x040 + 4 * i) = some (.shaH i) := by decide

/-- Every word of the RIPEMD-160 chaining value is found at its offset. -/
theorem locate_rmdH : ∀ i < 5, locate (0x060 + 4 * i) = some (.rmdH i) := by decide

/-- Reads that all got data unpack to the words' bytes, one word after another. -/
theorem unpack_data (ws : List Word) : unpack (ws.map .data) = some (ws.flatMap le32bytes) := by
  induction ws with
  | nil => rfl
  | cons w ws ih => simp [unpack, ih]

/-- The bytes of a word put together from four bytes are those bytes. -/
theorem le32bytes_le32 (b0 b1 b2 b3 : Byte) : le32bytes (le32 b0 b1 b2 b3) = [b0, b1, b2, b3] := by
  have h : ∀ k < 4, Word.byte (le32 b0 b1 b2 b3) k = [b0, b1, b2, b3].getD k 0 := by
    intro k hk
    apply BitVec.eq_of_getLsbD_eq
    intro j hj
    rcases (by omega : k = 0 ∨ k = 1 ∨ k = 2 ∨ k = 3) with rfl | rfl | rfl | rfl <;> simp [Word.byte, le32, hj] <;> grind
  simp only [le32bytes, h 0 (by decide), h 1 (by decide), h 2 (by decide), h 3 (by decide)]
  rfl

end Sys2Proof.Machine
end

