-- ==== Sys2Proof/Laws/Codec.lean ====
section
/-! SUPPORT. What the loops of the codecs compute: base conversion as the library's digits, regrouping in closed form, and one turn of the Bech32
checksum as a linear map. -/

namespace Sys2Proof.Machine

open Sys2Proof

/-- `toBase` gives the digits of `n`, most significant first. -/
theorem toBase_eq_digits (radix : Nat) (hr : 2 ≤ radix) (fuel n : Nat) (h : n ≤ fuel) :
    toBase radix fuel n = (Nat.digits radix n).reverse := by
  induction fuel generalizing n with
  | zero => simp [toBase, Nat.le_zero.1 h]
  | succ fuel ih =>
    rw [toBase]
    split
    · rename_i h0; simp [h0]
    · rename_i h0
      have hlt : n / radix < n := Nat.div_lt_self (Nat.pos_of_ne_zero h0) hr
      rw [ih (n / radix) (by omega), Nat.digits_def' hr (Nat.pos_of_ne_zero h0)]
      simp

/-- The big-endian value of a string of digits in a base. -/
theorem foldl_digits_append (radix : Nat) (d : List Nat) (x : Nat) :
    (d ++ [x]).foldl (fun n y => radix * n + y) 0 = radix * d.foldl (fun n y => radix * n + y) 0 + x := by
  simp

/-- The digits' value is the number. -/
theorem value_toBase (radix : Nat) (hr : 2 ≤ radix) (fuel n : Nat) (h : n ≤ fuel) :
    (toBase radix fuel n).foldl (fun n y => radix * n + y) 0 = n := by
  induction fuel generalizing n with
  | zero => simp [toBase, Nat.le_zero.1 h]
  | succ fuel ih =>
    rw [toBase]
    split
    · rename_i h0; simp [h0]
    · rename_i h0
      have hlt : n / radix < n := Nat.div_lt_self (Nat.pos_of_ne_zero h0) hr
      rw [foldl_digits_append, ih (n / radix) (by omega)]
      exact Nat.div_add_mod n radix

/-- The value of a string of `k`-bit digits, most significant first. -/
def bitValue (k : Nat) (b : List Byte) : Nat := b.foldl (fun a v => a * 2 ^ k + v.toNat) 0

/-- One more digit. -/
theorem bitValue_append (k : Nat) (b : List Byte) (v : Byte) : bitValue k (b ++ [v]) = bitValue k b * 2 ^ k + v.toNat := by
  simp [bitValue]

/-- Regrouping, in closed form: the accumulator is the value of the whole string, and output group `j` is the `j`-th group of `l` bits of it
from the top. -/
theorem regroup_eq (k l : Nat) (hl : 0 < l) (b : List Byte) (hb : ∀ v ∈ b, v.toNat < 2 ^ k) :
    regroup k l b =
      { acc := bitValue k b
        nbits := k * b.length % l
        out := (List.range (k * b.length / l)).map fun j =>
          BitVec.ofNat 8 ((bitValue k b >>> (k * b.length - l * (j + 1))) % 2 ^ l) } := by
  induction b using List.reverseRecOn with
  | nil => simp [regroup, bitValue]
  | append_singleton b v ih =>
    have hv : v.toNat < 2 ^ k := hb v (by simp)
    have ih := ih fun w hw => hb w (by simp [hw])
    have hn : k * (b.length + 1) = k * b.length + k := by ring
    have hd : l * (k * b.length / l) + k * b.length % l = k * b.length := Nat.div_add_mod _ _
    have hq : (k * b.length + k) / l = k * b.length / l + (k * b.length % l + k) / l := by
      conv_lhs => rw [← hd, Nat.add_assoc]
      rw [Nat.add_comm (l * _), Nat.add_mul_div_left _ _ hl, Nat.add_comm]
    have hshift : bitValue k (b ++ [v]) >>> k = bitValue k b := by
      rw [bitValue_append, Nat.shiftRight_eq_div_pow, Nat.add_comm, Nat.add_mul_div_right _ _ (by positivity),
        Nat.div_eq_of_lt hv, Nat.zero_add]
    have hstep : regroup k l (b ++ [v]) = (regroup k l b).feed k l v := by simp [regroup]
    rw [hstep, ih]
    simp only [Regroup.feed, List.length_append, List.length_singleton, hn]
    rw [← bitValue_append, hq, List.range_add, List.map_append]
    congr 1
    · rw [Nat.mod_add_mod]
    · congr 1
      · apply List.map_congr_left
        intro j hj
        have hj : j < k * b.length / l := List.mem_range.1 hj
        have h1 : l * (j + 1) ≤ k * b.length := le_trans (Nat.mul_le_mul_left l hj) (by omega)
        have h2 : k * b.length + k - l * (j + 1) = k + (k * b.length - l * (j + 1)) := by omega
        rw [h2, Nat.shiftRight_add, hshift]
      · rw [List.map_map]
        apply List.map_congr_left
        intro j _
        have h1 : l * (k * b.length / l + j + 1) = l * (k * b.length / l) + l * (j + 1) := by ring
        have h2 : k * b.length + k - l * (k * b.length / l + j + 1) = k * b.length % l + k - l * (j + 1) := by omega
        simp only [Function.comp_apply, h2]

/-- The generator feedback is linear. -/
theorem bchFeedback_xor (a b : BitVec 30) : bchFeedback (a ^^^ b) = bchFeedback a ^^^ bchFeedback b := by
  simp only [bchFeedback, List.range, List.range.loop, List.foldl_cons, List.foldl_nil, BitVec.getLsbD_xor]
  cases a.getLsbD 0 <;> cases a.getLsbD 1 <;> cases a.getLsbD 2 <;> cases a.getLsbD 3 <;> cases a.getLsbD 4 <;>
    cases b.getLsbD 0 <;> cases b.getLsbD 1 <;> cases b.getLsbD 2 <;> cases b.getLsbD 3 <;> cases b.getLsbD 4 <;> decide

/-- One turn of the checksum is linear in its state, and takes its word in at the end. -/
theorem polymodStep_xor (a b : BitVec 30) (x : Byte) :
    polymodStep (a ^^^ b) x = polymodStep a x ^^^ polymodStep b 0 := by
  have h1 : (a ^^^ b) >>> (25 : Nat) = a >>> (25 : Nat) ^^^ b >>> (25 : Nat) := by ext i hi; simp
  have h2 : ((a ^^^ b) &&& 0x1ffffff) <<< (5 : Nat) = (a &&& 0x1ffffff) <<< (5 : Nat) ^^^ (b &&& 0x1ffffff) <<< (5 : Nat) := by
    rw [← BitVec.shiftLeft_xor_distrib]
    congr 1
    ext i hi
    simp [Bool.and_xor_distrib_right]
  simp only [polymodStep, h1, h2, bchFeedback_xor]
  have h3 : BitVec.setWidth 30 (0 : Byte) = 0 := by decide
  rw [h3]
  ac_nf

/-- On a state of fewer than 26 bits a turn with word 0 is a shift by one word. -/
theorem polymodStep_small (a : BitVec 30) (h : a.toNat < 2 ^ 25) : polymodStep a 0 = a <<< (5 : Nat) := by
  have h1 : a >>> (25 : Nat) = 0 := by
    apply BitVec.eq_of_toNat_eq
    simp only [BitVec.toNat_ushiftRight, Nat.shiftRight_eq_div_pow]
    rw [Nat.div_eq_of_lt h]
    rfl
  have h2 : a &&& 0x1ffffff = a := by
    apply BitVec.eq_of_toNat_eq
    have h3 : (0x1ffffff : BitVec 30).toNat = 2 ^ 25 - 1 := by decide
    rw [BitVec.toNat_and, h3, Nat.and_two_pow_sub_one_eq_mod, Nat.mod_eq_of_lt h]
  have h4 : bchFeedback 0 = 0 := by decide
  have h5 : BitVec.setWidth 30 (0 : Byte) = 0 := by decide
  simp only [polymodStep, h1, h2, h4, h5]
  simp

/-- Regrouping into words gives one word for every five bits, the last one padded. -/
theorem toWords_length (b : List Byte) : (toWords b).length = (8 * b.length + 4) / 5 := by
  have h := regroup_eq 8 5 (by decide) b fun v _ => v.isLt
  unfold toWords
  rw [h]
  simp only
  split <;> simp <;> omega

/-- The value of a byte string is at least what is already read of it. -/
theorem le_foldl_intBe (b : List Byte) (n : Nat) : n ≤ b.foldl (fun n x => 256 * n + x.toNat) n := by
  induction b generalizing n with
  | nil => simp
  | cons c b ih => exact le_trans (by omega) (ih (256 * n + c.toNat))

/-- Only the empty byte string encodes to the empty string. -/
theorem b58Encode_ne_nil (c : Byte) (b : List Byte) : b58Encode (c :: b) ≠ [] := by
  by_cases hc : c = 0x00
  · subst hc
    simp [b58Encode, countLeading, List.replicate_succ]
  · have hz : countLeading 0x00 (c :: b) = 0 := by
      have h : (c == 0x00) = false := beq_eq_false_iff_ne.2 hc
      simp only [countLeading, List.takeWhile_cons, h]
      rfl
    have hpos : 0 < intBe (c :: b) := by
      have h1 : 0 < c.toNat := Nat.pos_of_ne_zero fun h => hc (BitVec.eq_of_toNat_eq h)
      have h2 := le_foldl_intBe b (256 * 0 + c.toNat)
      have h3 : intBe (c :: b) = b.foldl (fun n x => 256 * n + x.toNat) (256 * 0 + c.toNat) := rfl
      omega
    have hd : toBase 58 (intBe (c :: b)) (intBe (c :: b)) ≠ [] := by
      generalize intBe (c :: b) = n at hpos
      cases n with
      | zero => omega
      | succ n => rw [toBase, if_neg (by omega)]; simp
    rw [b58Encode, hz]
    simp only [List.drop_zero]
    intro h
    exact hd (List.map_eq_nil_iff.1 (List.append_eq_nil_iff.1 h).2)

end Sys2Proof.Machine
end

