-- ==== Sys2Proof/Laws/Decode.lean ====
section
/-! SUPPORT. Format C's fields and its words are the same thing. -/

namespace Sys2Proof

/-- The fields of the word of some fields. -/
theorem Fields.ofWord_toWord (f : Fields) : Fields.ofWord f.toWord = f := by
  obtain ⟨op, arg, key, rsv⟩ := f
  simp only [Fields.ofWord, Fields.toWord, Fields.mk.injEq]
  refine ⟨?_, ?_, ?_, ?_⟩
  · apply BitVec.eq_of_getLsbD_eq
    intro i hi
    simp only [BitVec.getLsbD_extractLsb', BitVec.getLsbD_append]
    simp [hi]
  · apply BitVec.eq_of_getLsbD_eq
    intro i hi
    simp only [BitVec.getLsbD_extractLsb', BitVec.getLsbD_append]
    have h1 : ¬ 8 + i < 8 := by omega
    simp [h1, hi]
  · simp only [BitVec.getLsbD_append]
    simp
  · apply BitVec.eq_of_getLsbD_eq
    intro i hi
    simp only [BitVec.getLsbD_extractLsb', BitVec.getLsbD_append]
    have h1 : ¬ 17 + i < 8 := by omega
    have h2 : ¬ 17 + i - 8 < 8 := by omega
    have h3 : ¬ 17 + i - 8 - 8 < 1 := by omega
    have h4 : 17 + i - 8 - 8 - 1 = i := by omega
    simp [h1, h2, h3, h4, hi]

/-- The word of the fields of a word. -/
theorem Fields.toWord_ofWord (w : Word) : (Fields.ofWord w).toWord = w := by
  simp only [Fields.ofWord, Fields.toWord]
  apply BitVec.eq_of_getLsbD_eq
  intro i hi
  simp only [BitVec.getLsbD_append, BitVec.getLsbD_extractLsb']
  by_cases h1 : i < 8
  · simp [h1]
  · by_cases h2 : i - 8 < 8
    · simp [h1, h2]; congr 1; omega
    · by_cases h3 : i - 8 - 8 < 1
      · have : i = 16 := by omega
        subst this; simp
      · have h4 : i - 8 - 8 - 1 < 15 := by omega
        simp [h1, h2, h3, h4]; congr 1; omega

/-- Words with the same fields are the same word. -/
theorem Fields.ofWord_injective (v w : Word) (h : Fields.ofWord v = Fields.ofWord w) : v = w := by
  rw [← Fields.toWord_ofWord v, ← Fields.toWord_ofWord w, h]

end Sys2Proof
end

