-- ==== Sys2Proof/Laws/PerInstr.lean ====
section
/-! SUPPORT. Per instruction: the word of every command passes `Legal` (30_encoding.md R96). -/

namespace Sys2Proof.Laws.Legal

open Sys2Proof

/-- The fields of the command's word are legal. -/
def Statement (i : Instr) : Prop := (Fields.ofWord (encode i)).legal = true

/-- It is enough that the fields it is made of are. -/
theorem of_fields (i : Instr) (h : i.fields.legal = true) : Statement i := by
  rw [Statement, encode, Fields.ofWord_toWord, h]

theorem sha256 : Statement (.sha256) := of_fields _ (by decide)
theorem rmd160 : Statement (.rmd160) := of_fields _ (by decide)
theorem hash160 (key : Bool) : Statement (.hash160 key) := of_fields _ (by cases key <;> decide)
theorem sha256d : Statement (.sha256d) := of_fields _ (by decide)
theorem checksum4 : Statement (.checksum4) := of_fields _ (by decide)
theorem shaInit : Statement (.shaInit) := of_fields _ (by decide)
theorem shaBlock : Statement (.shaBlock) := of_fields _ (by decide)
theorem rmdInit : Statement (.rmdInit) := of_fields _ (by decide)
theorem rmdBlock : Statement (.rmdBlock) := of_fields _ (by decide)
theorem b58Enc : Statement (.b58Enc) := of_fields _ (by decide)
theorem b58Dec : Statement (.b58Dec) := of_fields _ (by decide)
theorem b58chkEnc : Statement (.b58chkEnc) := of_fields _ (by decide)
theorem b58chkDec : Statement (.b58chkDec) := of_fields _ (by decide)
theorem b32Towords : Statement (.b32Towords) := of_fields _ (by decide)
theorem b32Fromwords : Statement (.b32Fromwords) := of_fields _ (by decide)
theorem b32Hrpexp : Statement (.b32Hrpexp) := of_fields _ (by decide)
theorem b32Polymod : Statement (.b32Polymod) := of_fields _ (by decide)
theorem b32Checksum : Statement (.b32Checksum) := of_fields _ (by decide)
theorem b32Enc (version : Byte) : Statement (.b32Enc version) := of_fields _ (by simp [Instr.fields, Fields.legal, Fields.opAssigned, Fields.rsvZero, Fields.keyAllowed, Fields.argAllowed, assignedOps])
theorem b32Dec : Statement (.b32Dec) := of_fields _ (by decide)
theorem scrClear : Statement (.scrClear) := of_fields _ (by decide)
theorem scrPush : Statement (.scrPush) := of_fields _ (by decide)
theorem scrOp (opcode : Byte) : Statement (.scrOp opcode) := of_fields _ (by simp [Instr.fields, Fields.legal, Fields.opAssigned, Fields.rsvZero, Fields.keyAllowed, Fields.argAllowed, assignedOps])
theorem scrHash : Statement (.scrHash) := of_fields _ (by decide)
theorem scrMulti2 : Statement (.scrMulti2) := of_fields _ (by decide)
theorem xfer : Statement (.xfer) := of_fields _ (by decide)
theorem prepend (byte : Byte) : Statement (.prepend byte) := of_fields _ (by simp [Instr.fields, Fields.legal, Fields.opAssigned, Fields.rsvZero, Fields.keyAllowed, Fields.argAllowed, assignedOps])

end Sys2Proof.Laws.Legal
end

