-- ==== Sys2Proof/Laws/Step.lean ====
section
/-! SUPPORT. The three cases of a step, said once. -/

namespace Sys2Proof.Machine

open Sys2Proof

/-- While reset is asserted every step is the host's. -/
theorem step_reset (s : State) (h : s.resetIn = true) : step s = .next s.hostStep := by simp [step, h]

/-- With no command pending a step is the host's. -/
theorem step_idle (s : State) (h : s.pend = none) : step s = .next s.hostStep := by
  unfold step
  split
  · rfl
  · rw [h]

/-- While a command's completion is not due a step is the host's, and brings it one step nearer. -/
theorem step_waiting (s : State) (c : Word) (n : Nat) (hr : s.resetIn = false) (h : s.pend = some c) (hn : s.countdown = n + 1) :
    step s = .next (State.hostStep { s with countdown := n }) := by
  unfold step
  rw [hr, h, hn]
  rfl

/-- A due completion step. -/
theorem step_due (s : State) (c : Word) (hr : s.resetIn = false) (h : s.pend = some c) (hn : s.countdown = 0) :
    step s = s.engineStep c := by
  unfold step
  rw [hr, h, hn]
  rfl

/-- A completion step is one `completed`. -/
theorem engineStep_completed (s : State) (c : Word) : ∃ r, s.engineStep c = .next (s.completed r) := by
  unfold State.engineStep
  split
  · exact ⟨_, rfl⟩
  · exact exec_completed _ s

/-- Everything a step can do: a host step, a host step that counts towards a completion, or a completion step. -/
theorem step_cases (s : State) :
    ((s.resetIn = true ∨ s.pend = none) ∧ step s = .next s.hostStep) ∨
    (∃ c n, s.resetIn = false ∧ s.pend = some c ∧ s.countdown = n + 1 ∧ step s = .next (State.hostStep { s with countdown := n })) ∨
    (∃ c, s.resetIn = false ∧ s.pend = some c ∧ s.countdown = 0 ∧ step s = s.engineStep c) := by
  rcases Bool.eq_false_or_eq_true s.resetIn with hr | hr
  · exact .inl ⟨.inl hr, step_reset s hr⟩
  · rcases Option.eq_none_or_eq_some s.pend with hp | ⟨c, hp⟩
    · exact .inl ⟨.inr hp, step_idle s hp⟩
    · rcases Nat.eq_zero_or_pos s.countdown with hn | hn
      · exact .inr (.inr ⟨c, hr, hp, hn, step_due s c hr hp hn⟩)
      · have hn : s.countdown = s.countdown - 1 + 1 := by omega
        exact .inr (.inl ⟨c, _, hr, hp, hn, step_waiting s c _ hr hp hn⟩)

/-- A step always answers a next state: the block has no traps and no stop (60_exceptions.md R248). -/
theorem step_next (s : State) : ∃ t, step s = .next t := by
  rcases step_cases s with ⟨-, h⟩ | ⟨c, n, -, -, -, h⟩ | ⟨c, -, -, -, h⟩
  · exact ⟨_, h⟩
  · exact ⟨_, h⟩
  · obtain ⟨r, hr⟩ := engineStep_completed s c
    exact ⟨_, h.trans hr⟩

/-- One step of a run. -/
theorem run_succ (s t : State) (k : Nat) (h : step s = .next t) : Sys2Proof.core.run (k + 1) s = Sys2Proof.core.run k t := by
  have hc : Sys2Proof.core.step s = Host.Outcome.next t := h
  simp only [Host.Core.run]
  rw [hc]

/-- A run goes on from where its first part ends. -/
theorem run_add (s t : State) (j k : Nat) (h : Sys2Proof.core.run j s = .next t) :
    Sys2Proof.core.run (j + k) s = Sys2Proof.core.run k t := by
  induction j generalizing s with
  | zero =>
    have hc : Host.Outcome.next s = Host.Outcome.next t := h
    cases hc
    rw [Nat.zero_add]
  | succ j ih =>
    obtain ⟨u, hu⟩ := step_next s
    rw [run_succ s u j hu] at h
    rw [Nat.add_right_comm, run_succ s u (j + k) hu, ih u h]

end Sys2Proof.Machine
end

