-- ==== Sys2Proof/Tests/Slice0.lean ====
section
/-! SUPPORT. Tests: ill-formed words refused, words written out from the encoding decoded, one step of every command against a vector of
spec/95_test_vectors.md (Vn below), and for every obligation with hypotheses a state and operands that meet them. -/

namespace Sys2Proof.Tests

set_option Elab.async false

open Sys2Proof Sys2Proof.Machine

/-! ## Helpers -/

/-- The `n` bytes of a number, most significant first. -/
def bytes (n v : Nat) : List Byte := (List.range n).map fun i => BitVec.ofNat 8 (v >>> (8 * (n - 1 - i)))

/-- `IN = m` after reset. -/
def inp (m : List Byte) : State := State.reset.loaded m

/-- `HRP = h` and `IN = m` after reset. -/
def hrpInp (h m : List Byte) : State :=
  { inp m with mem := (inp m).mem.setBufs .hrp 0 (h.map some), hrpLen := BitVec.ofNat 8 h.length }

/-- `OUT = m` after reset. -/
def out (m : List Byte) : State :=
  { State.reset with mem := State.reset.mem.setBufs .out 0 (m.map some), outLen := BitVec.ofNat 16 m.length }

/-- The state after a step, where there is one. -/
def after : Next → Option State
  | .next t => some t
  | .fault _ => none
  | .refused _ => none

/-- STATUS, and the first bytes of a buffer where all are known. -/
def sees (b : Buf) (n : Nat) (r : Next) : Option (Word × List (Option Byte)) :=
  (after r).map fun t => (t.statusWord, (List.range n).map fun i => t.mem.read (b.base + i))

/-- STATUS and OUT. -/
def outcome (r : Next) : Option (Word × List (Option Byte)) :=
  (after r).map fun t => (t.statusWord, (List.range t.outLen.toNat).map fun i => t.mem.read (0x200 + i))

/-- A result of `m` with no error. -/
def good (m : List Byte) : Option (Word × List (Option Byte)) := some (0x00000002, m.map some)

/-- An error with nothing put in OUT. -/
def bad (code : Nat) : Option (Word × List (Option Byte)) := some (BitVec.ofNat 32 (256 * code + 6), [])

/-- The key of V1. -/
def key1 : List Byte := bytes 33 0x0250863ad64a87ae8a2fe83c1af1a8403cb53f53e486d8511dad8a04887e5b2352

/-- The second key of V7. -/
def key2 : List Byte := bytes 33 0x0279be667ef9dcbbac55a06295ce870b07029bfcdb2dce28d959f2815b16f81798

/-- `"bc"`. -/
def bc : List Byte := [0x62, 0x63]

/-- A running `SHA256` with `n` host steps before its completion step. -/
def running (n : Nat) : State := { State.reset with cmd := 1, pend := some 1, countdown := n }

/-! ## Well-formedness: one ill-formed term for each check of R96, and a word of V37 for each -/

theorem test_wellFormed_accepts : Fields.legal ⟨0x28, 0xFF, false, 0⟩ = true := by decide
theorem test_wellFormed_op : Fields.opAssigned ⟨0x06, 0, false, 0⟩ = false ∧ Fields.legal ⟨0x06, 0, false, 0⟩ = false := by decide
theorem test_wellFormed_rsv : Fields.rsvZero ⟨0x01, 0, false, 1⟩ = false ∧ Fields.legal ⟨0x01, 0, false, 1⟩ = false := by decide
theorem test_wellFormed_key : Fields.keyAllowed ⟨0x01, 0, true, 0⟩ = false ∧ Fields.legal ⟨0x01, 0, true, 0⟩ = false := by decide
theorem test_wellFormed_arg : Fields.argAllowed ⟨0x10, 1, false, 0⟩ = false ∧ Fields.legal ⟨0x10, 1, false, 0⟩ = false := by decide
theorem test_reject_words : decode 0x00000006 = .error .reservedOpcode ∧ decode 0x00000110 = .error .argNotAllowed ∧
    decode 0x00010001 = .error .keyNotAllowed ∧ decode 0x00020001 = .error .reservedBits ∧
    decode 0x000000FF = .error .reservedOpcode := by decide

/-! ## Decoding: every row of R95, its word as R90 and R99 lay it out (V42 where it has the word) -/

theorem test_decode_hash : decode 0x00000001 = .ok .sha256 ∧ decode 0x00000002 = .ok .rmd160 ∧
    decode 0x00000003 = .ok (.hash160 false) ∧ decode 0x00010003 = .ok (.hash160 true) ∧ decode 0x00000004 = .ok .sha256d ∧
    decode 0x00000005 = .ok .checksum4 ∧ decode 0x00000008 = .ok .shaInit ∧ decode 0x00000009 = .ok .shaBlock ∧
    decode 0x0000000C = .ok .rmdInit ∧ decode 0x0000000D = .ok .rmdBlock := by decide
theorem test_decode_base58 : decode 0x00000010 = .ok .b58Enc ∧ decode 0x00000011 = .ok .b58Dec ∧
    decode 0x00000012 = .ok .b58chkEnc ∧ decode 0x00000013 = .ok .b58chkDec := by decide
theorem test_decode_bech32 : decode 0x00000020 = .ok .b32Towords ∧ decode 0x00000021 = .ok .b32Fromwords ∧
    decode 0x00000022 = .ok .b32Hrpexp ∧ decode 0x00000023 = .ok .b32Polymod ∧ decode 0x00000024 = .ok .b32Checksum ∧
    decode 0x00000028 = .ok (.b32Enc 0) ∧ decode 0x00001028 = .ok (.b32Enc 16) ∧ decode 0x0000FF28 = .ok (.b32Enc 255) ∧
    decode 0x00000029 = .ok .b32Dec := by decide
theorem test_decode_script : decode 0x00000030 = .ok .scrClear ∧ decode 0x00000031 = .ok .scrPush ∧
    decode 0x0000AC32 = .ok (.scrOp 0xAC) ∧ decode 0x00009A32 = .ok (.scrOp 0x9A) ∧ decode 0x00000033 = .ok .scrHash ∧
    decode 0x00000034 = .ok .scrMulti2 := by decide
theorem test_decode_transfer : decode 0x00000040 = .ok .xfer ∧ decode 0x00000041 = .ok (.prepend 0) ∧
    decode 0x00006F41 = .ok (.prepend 0x6F) := by decide
theorem test_decodeTableWord : decodeTableWord 32 0x0000AC32 = some (.scrOp 0xAC) ∧ decodeTableWord 32 0 = none := by decide

/-! ## One step of every command -/

/-- V9. -/
theorem test_sha256 : outcome (exec .sha256 (inp (bytes 3 0x616263))) =
    good (bytes 32 0xba7816bf8f01cfea414140de5dae2223b00361a396177a9cb410ff61f20015ad) := by decide +kernel

/-- V16: one byte more than IN holds. -/
theorem test_sha256_range : outcome (exec .sha256 { State.reset with inLen := 257 }) = bad 12 := by decide +kernel

/-- V11. -/
theorem test_rmd160 : outcome (exec .rmd160 (inp (bytes 3 0x616263))) =
    good (bytes 20 0x8eb208f7e05d987a9b044a8e98c6b087f15a0bfc) := by decide +kernel

/-- V1, V12. -/
theorem test_hash160_key : outcome (exec (.hash160 true) (inp key1)) =
    good (bytes 20 0xf54a5851e9372b87810a8e60cdd2e7cfd80b6e31) := by decide +kernel

/-- V12: prefix 04. -/
theorem test_hash160_prefix : outcome (exec (.hash160 true) (inp (0x04 :: key1.drop 1))) = bad 2 := by decide +kernel

/-- V13. -/
theorem test_sha256d : outcome (exec .sha256d (inp (bytes 3 0x616263))) =
    good (bytes 32 0x4f8b42c22dd3729b519ba6f68d2da7cc5b2d606d05daed5ad5128cc03e6c6358) := by decide +kernel

/-- V13. -/
theorem test_checksum4 : outcome (exec .checksum4 (inp key1)) = good (bytes 4 0xf96f26c8) := by decide +kernel

/-- V14. -/
theorem test_shaInit : (after (exec .shaInit { State.reset with shaH := ⟨1, 2, 3, 4, 5, 6, 7, 8⟩, inLen := 0xFFFF })).map (·.shaH.words) =
    some [0x6a09e667, 0xbb67ae85, 0x3c6ef372, 0xa54ff53a, 0x510e527f, 0x9b05688c, 0x1f83d9ab, 0x5be0cd19] := by decide

/-- V14. -/
theorem test_shaBlock : (after (exec .shaBlock (inp (bytes 64 (0x61626380 <<< 480 + 0x18))))).map (·.shaH.words) =
    some [0xba7816bf, 0x8f01cfea, 0x414140de, 0x5dae2223, 0xb00361a3, 0x96177a9c, 0xb410ff61, 0xf20015ad] := by decide +kernel

/-- V16: 63 bytes. -/
theorem test_shaBlock_length : outcome (exec .shaBlock { State.reset with inLen := 63 }) = bad 12 := by decide +kernel

/-- V15. -/
theorem test_rmdInit : (after (exec .rmdInit { State.reset with rmdH := ⟨1, 2, 3, 4, 5⟩ })).map (·.rmdH.words) =
    some [0x67452301, 0xefcdab89, 0x98badcfe, 0x10325476, 0xc3d2e1f0] := by decide

/-- V15. -/
theorem test_rmdBlock : (after (exec .rmdBlock (inp (bytes 64 (0x61626380 <<< 480 + 0x1800000000000000))))).map (·.rmdH.words) =
    some [0xf708b28e, 0x7a985de0, 0x8e4a049b, 0x87b0c698, 0xfc0b5af1] := by decide +kernel

/-- V16: 65 bytes. -/
theorem test_rmdBlock_length : outcome (exec .rmdBlock { State.reset with inLen := 65 }) = bad 12 := by decide +kernel

/-- V21: `"11233QC4"`. -/
theorem test_b58Enc : outcome (exec .b58Enc (inp (bytes 6 0x0000287fb4cd))) = good (bytes 8 0x3131323333514334) := by decide +kernel

/-- V22: `"3QJmnh"`. -/
theorem test_b58Dec : outcome (exec .b58Dec (inp (bytes 6 0x33514a6d6e68))) = good (bytes 4 0x5df6e0e2) := by decide +kernel

/-- V22: `"0"`. -/
theorem test_b58Dec_character : outcome (exec .b58Dec (inp [0x30])) = bad 4 := by decide +kernel

/-- V23: `"1PMycacnJaSqwwJqjawXBErnLsZ7RkXUAs"`. -/
theorem test_b58chkEnc : outcome (exec .b58chkEnc (inp (bytes 21 0x00f54a5851e9372b87810a8e60cdd2e7cfd80b6e31))) =
    good (bytes 34 0x31504d796361636e4a61537177774a716a6177584245726e4c735a37526b58554173) := by decide +kernel

/-- V23, the same back. -/
theorem test_b58chkDec : outcome (exec .b58chkDec (inp (bytes 34 0x31504d796361636e4a61537177774a716a6177584245726e4c735a37526b58554173))) =
    good (bytes 21 0x00f54a5851e9372b87810a8e60cdd2e7cfd80b6e31) := by decide +kernel

/-- V23: the last character `t` in place of `s`. -/
theorem test_b58chkDec_checksum :
    outcome (exec .b58chkDec (inp (bytes 34 0x31504d796361636e4a61537177774a716a6177584245726e4c735a37526b58554174))) = bad 3 := by
  decide +kernel

/-- V25. -/
theorem test_b32Towords : outcome (exec .b32Towords (inp (bytes 5 0x123456789a))) = good [2, 8, 26, 5, 12, 30, 4, 26] := by decide +kernel

/-- V26. -/
theorem test_b32Fromwords : outcome (exec .b32Fromwords (inp [31, 28])) = good [0xFF] := by decide +kernel

/-- V26: a padding bit that is 1. -/
theorem test_b32Fromwords_padding : outcome (exec .b32Fromwords (inp [31, 29])) = bad 11 := by decide +kernel

/-- V27. -/
theorem test_b32Hrpexp : outcome (exec .b32Hrpexp (hrpInp bc [])) = good [3, 3, 0, 2, 3] := by decide +kernel

/-- V27: `HRP_LEN = 0`. -/
theorem test_b32Hrpexp_none : outcome (exec .b32Hrpexp (hrpInp [] [])) = bad 7 := by decide +kernel

/-- V28. -/
theorem test_b32Polymod : (after (exec .b32Polymod (inp (List.replicate 10 31)))).map (·.result) = some 0x086f3ba1 := by decide +kernel

/-- V28: not a 5-bit value. -/
theorem test_b32Polymod_input : outcome (exec .b32Polymod (inp [32])) = bad 9 := by decide +kernel

/-- V29. -/
theorem test_b32Checksum : outcome (exec .b32Checksum (hrpInp bc [])) = good [8, 27, 22, 5, 4, 28] ∧
    (after (exec .b32Checksum (hrpInp bc []))).map (·.result) = some 0x11bb149c := by decide +kernel

/-- V29: the HRP check comes first. -/
theorem test_b32Checksum_order : outcome (exec .b32Checksum (hrpInp [] [32])) = bad 7 := by decide +kernel

/-- V30: `"bc1sw50qa3jx3s"`. -/
theorem test_b32Enc : outcome (exec (.b32Enc 16) (hrpInp bc [0x75, 0x1e])) = good (bytes 14 0x626331737735307161336a783373) := by
  decide +kernel

/-- V31: version 0 needs 20 or 32 bytes. -/
theorem test_b32Enc_length : outcome (exec (.b32Enc 0) (hrpInp bc [0x75, 0x1e])) = bad 9 := by decide +kernel

/-- V32: `"bc1sw50qa3jx3s"`. -/
theorem test_b32Dec : outcome (exec .b32Dec (inp (bytes 14 0x626331737735307161336a783373))) = good [0x75, 0x1e] ∧
    sees .hrp 2 (exec .b32Dec (inp (bytes 14 0x626331737735307161336a783373))) = good bc ∧
    (after (exec .b32Dec (inp (bytes 14 0x626331737735307161336a783373)))).map (fun t => (t.hrpLen, t.result)) = some (2, 16) := by
  decide +kernel

/-- V32: `"bc1gmk9yu"`, a checksum and no version. -/
theorem test_b32Dec_noVersion : outcome (exec .b32Dec (inp (bytes 9 0x626331676d6b397975))) = bad 8 := by decide +kernel

/-- V33, step 10. -/
theorem test_scrClear : (after (exec .scrClear { State.reset with scrLen := 256 })).map (·.scrLen) = some 0 := by decide

/-- V33, step 2 in little: a push appends its length and its bytes. -/
theorem test_scrPush : sees .scr 3 (exec .scrPush (inp [0x11, 0x12])) = good [0x02, 0x11, 0x12] ∧
    (after (exec .scrPush { inp [0x11] with scrLen := 254 })).map (·.scrLen) = some 256 := by decide +kernel

/-- V33, step 6: 229 + 28 bytes do not fit. -/
theorem test_scrPush_full : outcome (exec .scrPush { inp (List.replicate 27 0x44) with scrLen := 229 }) = bad 12 := by decide +kernel

/-- P3: `OP_CHECKSIG` appended. -/
theorem test_scrOp : sees .scr 1 (exec (.scrOp 0xAC) State.reset) = good [0xAC] ∧
    (after (exec (.scrOp 0xAC) { State.reset with scrLen := 34 })).map (·.scrLen) = some 35 := by decide +kernel

/-- V33, step 8. -/
theorem test_scrOp_full : outcome (exec (.scrOp 0) { State.reset with scrLen := 256 }) = bad 12 := by decide +kernel

/-- V33, step 11. -/
theorem test_scrHash : outcome (exec .scrHash State.reset) =
    good (bytes 32 0xe3b0c44298fc1c149afbf4c8996fb92427ae41e4649b934ca495991b7852b855) := by decide +kernel

/-- V34, the first row. -/
theorem test_scrMulti2 : sees .scr 71 (exec .scrMulti2 (inp (key1 ++ key2))) =
    good (bytes 36 0x210250863ad64a87ae8a2fe83c1af1a8403cb53f53e486d8511dad8a04887e5b2352ac21 ++
      bytes 35 0x0279be667ef9dcbbac55a06295ce870b07029bfcdb2dce28d959f2815b16f81798ac9a) ∧
    (after (exec .scrMulti2 (inp (key1 ++ key2)))).map (·.scrLen) = some 71 := by decide +kernel

/-- V34: the second key's prefix. -/
theorem test_scrMulti2_prefix : outcome (exec .scrMulti2 (inp (key1 ++ [0x05] ++ key1.drop 1))) = bad 2 := by decide +kernel

/-- V36: `OUT` moved, and a byte of it that is unspecified stays so. -/
theorem test_xfer : sees .inb 2 (exec .xfer (out [0xf5, 0x4a])) = good [0xf5, 0x4a] ∧
    (after (exec .xfer { inp [1, 2, 3] with outLen := 2 })).map (fun t => (t.inLen, t.mem)) = some (2, [(0x102, 3)]) := by decide +kernel

/-- V36: 350 bytes are more than IN holds. -/
theorem test_xfer_range : (after (exec .xfer { State.reset with outLen := 350 })).map (·.errcode) = some 12 := by decide +kernel

/-- V36. -/
theorem test_prepend : sees .inb 3 (exec (.prepend 0x6f) (inp [0xf5, 0x4a])) = good [0x6f, 0xf5, 0x4a] ∧
    (after (exec (.prepend 0xAB) State.reset)).map (fun t => (t.inLen, t.mem)) = some (1, [(0x100, 0xAB)]) := by decide +kernel

/-- V36: a full IN. -/
theorem test_prepend_full : outcome (exec (.prepend 0x07) (inp (List.replicate 256 0x01))) = bad 12 := by decide +kernel

/-! ## One access to the window -/

/-- V38, R62: the offsets on both sides of every edge of the map. -/
theorem test_map_edges :
    [0x000, 0x024, 0x040, 0x070, 0x100, 0x450, 0x500, 0x5FC].all (fun off => (locate off).isSome) = true ∧
    [0x028, 0x03C, 0x074, 0x0FC, 0x454, 0x4FC, 0x600, 0xFFC, 0x1000, 0x101, 0x026].all (fun off => (locate off).isNone) = true := by decide

/-- V38: a read at another width, and a read of `HWVER`. -/
theorem test_read : (State.reset.access (.read .w16 0x100)).answers = [.busError] ∧
    (State.reset.access (.read .w32 0x004)).answers = [.data 0x00010000] := by decide

/-- V38: the last word of a full HRP. -/
theorem test_read_lastHrp : ((hrpInp (List.replicate 83 0x61) []).access (.read .w32 0x450)).answers = [.data 0x00616161] := by decide +kernel

/-- P1: the first word of its input, in its byte lanes. -/
theorem test_write_lanes : (State.reset.access (.write .w32 0x100 0x3a865002)).mem =
    [(0x100, 0x02), (0x101, 0x50), (0x102, 0x86), (0x103, 0x3a)] := by decide

/-- P1: `LOADIN` of the key, its first and its last data word and the length. -/
theorem test_loadIn : (loadIn key1).length = 10 ∧ (loadIn key1)[0]? = some (wr 0x100 0x3a865002) ∧
    (loadIn key1)[8]? = some (wr 0x120 0x00000052) ∧ (loadIn key1)[9]? = some (wr 0x014 33) := by decide +kernel

/-- P1: the words of `RDOUT`, the upper half of the last one not asked for, are the address; no data, no result. -/
theorem test_rdOutResult : rdOutResult [.data 34, .data 0x794d5031, .data 0x6e636163, .data 0x7153614a, .data 0x714a7777, .data 0x5877616a,
      .data 0x6e724542, .data 0x375a734c, .data 0x55586b52, .data 0xABCD7341] =
    some (bytes 34 0x31504d796361636e4a61537177774a716a6177584245726e4c735a37526b58554173) ∧ rdOutResult [.noAnswer] = none := by
  decide +kernel

/-- P5: `RUN .word 0x00000101`, and the ERRCODE in its last read of STATUS. -/
theorem test_runWord : runWord 0x00000101 = [wr 0x010 0x00000101, .wait] ∧ runCode [.data 0x00000D06, .ok] = some 13 ∧
    run (.scrOp 0xAC) = [wr 0x010 0x0000AC32, .wait] := by decide

/-- P5 (a): an input-class write while a command runs, and STATUS after it: BUSY and HAZ. -/
theorem test_write_busy : ((running 1).access (.write .w32 0x014 0)).statusWord = 0x00000009 ∧
    ((running 1).access (.write .w32 0x014 0)).inLen = 0 := by decide

/-- P5: an illegal word completes, with `STATUS = 0x00000D06`. -/
theorem test_illegal : (after (step (State.reset.withFetchWord 32 0x00000101))).map (·.statusWord) = some 0x00000D06 := by decide

/-! ## Witnesses: for each obligation with hypotheses, a state and operands that meet them, clause by clause -/

theorem witness_DecodeAndEncodeAgree : decode 0x0000FF28 = .ok (.b32Enc 255) := by decide

theorem witness_StepRunsThePendingCommand :
    ∃ (s : State) (c : Word) (i : Instr), s.resetIn = false ∧ s.pend = some c ∧ s.countdown = 0 ∧ decode c = .ok i :=
  ⟨running 0, 1, .sha256, by decide⟩

theorem witness_StepMakesTheHostsAccess :
    ∃ (s t u : State) (a : BusAccess), s.host = [.access a] ∧ s.pend = none ∧ t.host = [.access a] ∧ t.resetIn = true ∧
      u.host = [.access a] ∧ u.resetIn = false ∧ u.pend = some 1 ∧ u.countdown = 0 + 1 :=
  ⟨{ State.reset with host := [rd 0] }, { State.reset with host := [rd 0], resetIn := true }, { running 1 with host := [rd 0] },
    .read .w32 0, by decide⟩

theorem witness_CmdWriteIssuesTheCommand : State.reset.resetIn = false ∧ State.reset.busy = false ∧
    (running 0).resetIn = false ∧ (running 0).busy = true := by decide

theorem witness_IllegalCommandCompletesWithItsCode : decode 0x80000001 = .error .reservedBits ∧
    (State.reset.resetIn = false ∧ State.reset.busy = false) ∧
    ∃ s : State, s.resetIn = false ∧ s.pend = some 0x80000001 ∧ s.cmd = 0x80000001 ∧ s.countdown = 0 :=
  ⟨by decide, by decide, { State.reset with pend := some 0x80000001, cmd := 0x80000001 }, by decide⟩

theorem witness_ErringCommandChangesOnlyStatus :
    ∃ (i : Instr) (s t : State), exec i s = .next t ∧ t.err = true :=
  ⟨.sha256, { State.reset with inLen := 257 }, _, rfl, by decide⟩

/-- Each case of R241 on both sides of its edge. -/
theorem witness_LengthRangeIsRaisedExactlyWhen :
    let code := fun i s => (after (exec i s)).map (·.errcode)
    code .sha256 (inp (List.replicate 256 0)) = some 0 ∧ code .sha256 { State.reset with inLen := 257 } = some 12 ∧
    code .shaBlock (inp (List.replicate 64 0)) = some 0 ∧ code .shaBlock { State.reset with inLen := 65 } = some 12 ∧
    code .scrPush { inp (List.replicate 75 0) with scrLen := 180 } = some 0 ∧
    code .scrPush { inp (List.replicate 75 0) with scrLen := 181 } = some 12 ∧
    code .scrPush { inp (List.replicate 76 0) with scrLen := 180 } = some 9 ∧
    code (.scrOp 0) { State.reset with scrLen := 255 } = some 0 ∧ code (.scrOp 0) { State.reset with scrLen := 256 } = some 12 ∧
    code .xfer { State.reset with outLen := 256 } = some 0 ∧ code .xfer { State.reset with outLen := 257 } = some 12 ∧
    code (.prepend 0) (inp (List.replicate 255 0)) = some 0 ∧ code (.prepend 0) (inp (List.replicate 256 0)) = some 12 ∧
    code .shaInit { State.reset with inLen := 0xFFFF } = some 0 := by decide +kernel

theorem witness_EveryPendingCommandCompletes :
    ∃ (s : State) (c : Word), s.resetIn = false ∧ s.pend = some c ∧ (∀ op ∈ s.host, op.resets = false) ∧ s.countdown = 2 :=
  ⟨{ running 2 with host := [.wait, wr 0x008 1, wr 0x100 5, rd 0x018] }, 1, by decide⟩

theorem witness_RunningCommandsStateIsFrozen :
    ∃ (s t : State) (op : HostOp), s.resetIn = false ∧ s.pend = some 1 ∧ s.countdown = 0 + 1 ∧ s.host = [op] ∧ op.resets = false ∧
      step s = .next t :=
  ⟨{ running 1 with host := [wr 0x100 5] }, _, wr 0x100 5, by decide, by decide, by decide, by decide, by decide, rfl⟩

theorem witness_ResultDoesNotDependOnLatency :
    ∃ (s : State) (c : Word), s.resetIn = false ∧ s.pend = some c ∧ s.host = [] ∧ s.InputsKnown :=
  ⟨{ inp (bytes 3 0x616263) with cmd := 1, pend := some 1 }, 1, by decide, by decide, by decide, by
    unfold State.InputsKnown; decide +kernel⟩

theorem witness_KnownInputsLeaveNothingToDraws : ∃ (i : Instr) (s t : State), s.InputsKnown ∧ exec i s = .next t :=
  ⟨.sha256, inp (bytes 3 0x616263), _, by unfold State.InputsKnown; decide +kernel, rfl⟩

theorem witness_EveryStepKeepsTheInvariant : ∃ s t : State, s.Inv ∧ s.haz = true ∧ step s = .next t :=
  ⟨{ running 0 with haz := true }, _,
    { memWf := by decide
      pending := fun c h => by cases h; decide
      idle := fun h => by cases h
      errHasCode := fun h => by cases h
      errcodeLe := by decide
      outLenLe := by decide
      scrLenLe := by decide
      resultLt := by decide
      outKnown := fun i h => absurd h (Nat.not_lt_zero i)
      scrKnown := fun i h => absurd h (Nat.not_lt_zero i)
      resetQuiet := fun h => by cases h }, rfl, rfl⟩

/-- The command `SHA256` is outside every list of the three frames, and OUT_LEN after it is 32. -/
theorem witness_frames : ∃ (i : Instr) (s t : State), exec i s = .next t ∧ (s.mem.wf ∧ t.outLen.toNat ≤ 32) ∧
    ((∀ b, i ≠ .prepend b) ∧ ∀ b, i ≠ .scrOp b) ∧
    i ∉ ([.shaInit, .shaBlock, .rmdInit, .rmdBlock, .xfer, .b32Dec, .scrClear, .scrPush, .scrMulti2, .b32Polymod, .b32Checksum] : List Instr) :=
  ⟨.sha256, inp [1], _, rfl, by decide +kernel, ⟨nofun, nofun⟩, by decide⟩

/-- For the frames' clauses on OUT: the eleven commands that name no OUT. -/
theorem witness_frames_out : ∃ (i : Instr) (s t : State), exec i s = .next t ∧ s.mem.wf ∧ namesOut i = false ∧
    ([.shaInit, .shaBlock, .rmdInit, .rmdBlock, .b32Polymod, .scrClear, .scrPush, .scrOp 0, .scrMulti2, .xfer, .prepend 0] : List Instr).all
      (fun j => !namesOut j) = true :=
  ⟨.scrClear, out [1], _, rfl, by decide +kernel, by decide, by decide⟩

theorem witness_HazIsSticky :
    (∃ s t : State, step s = .next t ∧ s.haz = true ∧ t.haz = false) ∧ ∃ s t : State, step s = .next t ∧ s.haz = false ∧ t.haz = true :=
  ⟨⟨{ State.reset with haz := true, host := [wr 0x00C 8] }, _, rfl, rfl, by decide⟩,
    ⟨{ running 1 with host := [wr 0x014 0] }, _, rfl, rfl, by decide⟩⟩

theorem witness_ResetGivesEveryRegisterItsValue :
    (running 0).resetIn = false ∧ (2 : Word).getLsbD 1 = true ∧ { State.reset with resetIn := true, done := true }.resetIn = true := by decide

theorem witness_ResetAbortsTheRunningCommand :
    ∃ s u : State, s.resetIn = false ∧ s.pend = some 1 ∧ s.countdown = 0 + 1 ∧ s.host = [.resetAssert] ∧ u.resetIn = false ∧
      u.pend = some 1 ∧ u.countdown = 0 + 1 ∧ u.host = [wr 0x008 2] ∧ (2 : Word).getLsbD 1 = true :=
  ⟨{ running 1 with host := [.resetAssert] }, { running 1 with host := [wr 0x008 2] }, by decide⟩

/-- Of the clauses of `BusErrorExactlyOffTheMap`; the edges are in `test_map_edges`. -/
theorem witness_BusErrorExactlyOffTheMap : State.reset.resetIn = false ∧ Width.w8 ≠ .w32 ∧ 0x101 % 4 ≠ 0 ∧ (0x028 ≤ 0x03C ∧ 0x03C < 0x040) ∧
    (0x074 ≤ 0x0FC ∧ 0x0FC < 0x100) ∧ (0x454 ≤ 0x4FC ∧ 0x4FC < 0x500) ∧ 0x600 ≤ 0x1000 := by decide

theorem witness_idle : State.reset.resetIn = false ∧ State.reset.busy = false := by decide

theorem witness_busy : (running 1).resetIn = false ∧ (running 1).busy = true := by decide

/-- One offset at each end of every range of the two clauses, and none of one clause in the other. -/
theorem witness_BusyReadsOfOutputsAreDraws :
    [0x018, 0x020, 0x024, 0x040, 0x070, 0x200, 0x3FC, 0x500, 0x5FC].all
      (fun off => (locate off).map (·.cls) == some .output && off % 4 == 0) = true ∧
    [0x000, 0x014, 0x01C, 0x100, 0x1FC, 0x400, 0x450].all
      (fun off => (locate off).isSome && (locate off).map (·.cls) != some .output && off % 4 == 0) = true := by decide

theorem witness_WritesWhileBusyAreDropped :
    [0x010, 0x014, 0x01C, 0x100, 0x1FC, 0x400, 0x450].all
      (fun off => (locate off).map (·.cls) == some .input && off % 4 == 0) = true := by decide

theorem witness_ControlWritesTakeEffectAlways :
    (0xFFFFFFFD : Word).getLsbD 1 = false ∧ (3 : Word).getLsbD 1 = true ∧ 0x070 % 4 = 0 ∧ (0x040 ≤ 0x070 ∧ 0x070 < 0x074) ∧
    0x3FC % 4 = 0 ∧ (0x200 ≤ 0x3FC ∧ 0x3FC < 0x400) ∧ 0x5FC % 4 = 0 ∧ (0x500 ≤ 0x5FC ∧ 0x5FC < 0x600) := by decide

theorem witness_BufferWordWrittenReadsBack : State.reset.resetIn = false ∧ State.reset.busy = false ∧ 63 < 64 ∧ 19 < 20 ∧
    locate (0x100 + 4 * 63) = some (.buf .inb 63) ∧ locate (0x400 + 4 * 19) = some (.buf .hrp 19) := by decide

/-- A word of OUT and of SCR, the last of each, and the first of IN and HRP, with four known bytes. -/
theorem witness_RegistersReadTheirContents :
    let full := fun (b : Buf) (k : Nat) => State.reset.mem.setBufs b (4 * k) [some 1, some 2, some 3, some 4]
    let holds := fun (b : Buf) (k : Nat) => (List.range 4).map fun i => (full b k).read (b.base + 4 * k + i)
    State.reset.busy = false ∧ holds .out 127 = [some 1, some 2, some 3, some 4] ∧ holds .scr 63 = [some 1, some 2, some 3, some 4] ∧
    holds .inb 0 = [some 1, some 2, some 3, some 4] ∧ holds .hrp 19 = [some 1, some 2, some 3, some 4] := by decide

theorem witness_LastHrpLaneReadsZeroAndIgnoresWrites : State.reset.resetIn = false ∧ State.reset.busy = false ∧
    (0xFF616161 : Word) ≠ 0x00616161 ∧ (0xFF616161 : Word).extractLsb' 0 24 = (0x00616161 : Word).extractLsb' 0 24 := by decide

/-- The three events, a reset by the release of the reset input among them, and a step in which IRQ falls. -/
theorem witness_IrqIsEnabledMaskedAndCleared : State.reset.resetIn = false ∧ (1 : Word).getLsbD 1 = false ∧ (2 : Word).getLsbD 1 = true ∧
    State.reset.busy = false ∧ { State.reset with resetIn := true }.resetIn = true ∧
    ∃ s t : State, step s = .next t ∧ s.irq = true ∧ t.irq = false :=
  ⟨by decide, by decide, by decide, by decide, by decide, { State.reset with ie := true, done := true, host := [wr 0x00C 2] }, _, rfl,
    by decide, by decide⟩

/-- The longest `LOADIN` and `LOADHRP`, and `RDOUT` of three known bytes. -/
theorem witness_HostTransfersMoveTheirBytes :
    (∃ (s : State) (m : List Byte), s.resetIn = false ∧ s.pend = none ∧ m.length = 256 ∧ s.host = loadIn m ++ [.idle]) ∧
    (∃ (s : State) (m : List Byte), s.resetIn = false ∧ s.pend = none ∧ m.length = 83 ∧ s.host = loadHrp m ++ [.idle]) ∧
    ∃ s : State, s.resetIn = false ∧ s.pend = none ∧ s.outLen.toNat = 3 ∧
      (∀ k, k < 3 → s.mem.read (0x200 + k) = ([1, 2, 3] : List Byte)[k]?) ∧ s.host = [.rdOut] :=
  ⟨⟨{ State.reset with host := loadIn (List.replicate 256 7) ++ [.idle] }, List.replicate 256 7, rfl, rfl, List.length_replicate, rfl⟩,
    ⟨{ State.reset with host := loadHrp (List.replicate 83 7) ++ [.idle] }, List.replicate 83 7, rfl, rfl, List.length_replicate, rfl⟩,
    ⟨{ out [1, 2, 3] with host := [.rdOut] }, by decide, by decide, by decide, by decide, rfl⟩⟩

theorem witness_RunPseudoInstructionRunsTheCommand :
    (∃ s : State, s.resetIn = false ∧ s.pend = none ∧ s.host = runWord 0x00000033 ++ [.rdOut]) ∧ decode 0x00000033 = .ok .scrHash ∧
    decode 0x00000101 = .error .argNotAllowed :=
  ⟨⟨{ State.reset with host := runWord 0x00000033 ++ [.rdOut] }, rfl, rfl, rfl⟩, by decide, by decide⟩

/-- IN_LEN at its largest, for every statement that asks for a length IN holds. -/
theorem witness_longestInput : (inp (List.replicate 256 1)).inLen.toNat ≤ 256 ∧ (inp (List.replicate 256 1)).InOk := by
  unfold State.InOk; decide +kernel

theorem witness_Hash160ChecksTheKeyThenHashes :
    ((inp key1).inLen.toNat = 33 ∧ (inp key1).byteAt .inb 0 = 0x02) ∧
    ((inp (0x03 :: key1.drop 1)).inLen.toNat = 33 ∧ (inp (0x03 :: key1.drop 1)).byteAt .inb 0 = 0x03) ∧
    (inp (key1 ++ [0])).inLen.toNat ≠ 33 ∧
    ((inp (0x04 :: key1.drop 1)).inLen.toNat = 33 ∧ (inp (0x04 :: key1.drop 1)).byteAt .inb 0 ≠ 0x02 ∧
      (inp (0x04 :: key1.drop 1)).byteAt .inb 0 ≠ 0x03) := by
  simp only [State.byteAt]
  refine ⟨⟨by decide +kernel, ?_⟩, ⟨by decide +kernel, ?_⟩, by decide +kernel, by decide +kernel, ?_, ?_⟩ <;>
    exact (by decide +kernel)

theorem witness_BlockCommandsCompressOneBlock :
    (inp (List.replicate 64 0)).inLen.toNat = 64 ∧ (inp (List.replicate 63 0)).inLen.toNat ≠ 64 := by decide +kernel

theorem witness_Base58RoundTrips :
    (∀ c ∈ ([0x31, 0x7A] : List Byte), c ∈ alpha58) ∧ ∃ c ∈ ([0x31, 0x30] : List Byte), c ∉ alpha58 := by decide

theorem witness_Base58DecoderDecodesTheAlphabet :
    (∀ c ∈ (inp [0x31, 0x7A]).input, c ∈ alpha58) ∧ ∃ c ∈ (inp [0x31, 0x30]).input, c ∉ alpha58 := by decide +kernel

theorem witness_Base58CheckDecoderInvertsTheEncoder :
    (inp (bytes 6 0x33514a6d6e68)).input = b58checkEncode [] ∧ (∃ c ∈ (inp [0x30]).input, c ∉ alpha58) ∧
    ((∀ c ∈ (inp []).input, c ∈ alpha58) ∧ ∀ p, (inp []).input ≠ b58checkEncode p) := by
  refine ⟨by decide +kernel, by decide +kernel, by decide +kernel, fun p h => ?_⟩
  cases p with
  | nil => exact absurd h (by decide +kernel)
  | cons c p => exact b58Encode_ne_nil c _ (h.symm.trans rfl)

theorem witness_FromWordsInvertsToWords :
    (inp [31, 28]).input = toWords [0xFF] ∧ (∃ w ∈ (inp [31, 32]).input, w.toNat > 31) ∧
    ((∀ w ∈ (inp [31]).input, w.toNat ≤ 31) ∧ ∀ b, (inp [31]).input ≠ toWords b) := by
  refine ⟨by decide +kernel, by decide +kernel, by decide +kernel, fun b h => ?_⟩
  have h1 := congrArg List.length h
  rw [toWords_length, input_length] at h1
  have h2 : (inp [31]).inLen.toNat = 1 := by decide
  omega

/-- The longest HRP with the lowest and the highest character, and one of each kind that is refused. -/
theorem witness_HrpExpansionOfAValidHrp :
    let valid := hrpInp ([0x21, 0x7E] ++ List.replicate 81 0x61) []
    (1 ≤ valid.hrpLen.toNat ∧ valid.hrpLen.toNat = 83 ∧
      ∀ c ∈ valid.hrpInput, 33 ≤ c.toNat ∧ c.toNat ≤ 126 ∧ ¬ (0x41 ≤ c.toNat ∧ c.toNat ≤ 0x5A)) ∧
    (hrpInp [] []).hrpLen.toNat = 0 ∧ { State.reset with hrpLen := 84 }.hrpLen.toNat > 83 ∧
    (∃ c ∈ (hrpInp [0x20] []).hrpInput, c.toNat < 33) ∧ (∃ c ∈ (hrpInp [0x7F] []).hrpInput, 126 < c.toNat) ∧
    ∃ c ∈ (hrpInp [0x5A] []).hrpInput, 0x41 ≤ c.toNat ∧ c.toNat ≤ 0x5A := by decide +kernel

theorem witness_PolymodGoesToResult :
    (∀ w ∈ (inp [0, 31]).input, w.toNat ≤ 31) ∧ ∃ w ∈ (inp [0, 32]).input, w.toNat > 31 := by decide +kernel

/-- V29: the checksum words of `"bc"` and no data, and six others. -/
theorem witness_ChecksumIsTheOnlyOneThatVerifies :
    (∀ w ∈ ([8, 27, 22, 5, 4, 28] : List Byte), w.toNat ≤ 31) ∧ createChecksum bc [] = [8, 27, 22, 5, 4, 28] ∧
    polymod (hrpExpand bc ++ ([] ++ [8, 27, 22, 5, 4, 28])) = 1 ∧ polymod (hrpExpand bc ++ ([] ++ [8, 27, 22, 5, 4, 29])) ≠ 1 := by
  decide +kernel

/-- For `ChecksumCommandWritesItsWords` and `Bech32EncoderWritesTheAddress`: a valid HRP with words and with a word too large, and no HRP. -/
theorem witness_bech32Operands :
    ((hrpInp bc [31]).InOk ∧ (hrpInp bc [31]).HrpInOk ∧ ∀ w ∈ (hrpInp bc [31]).input, w.toNat ≤ 31) ∧
    ((hrpInp [] [31]).InOk ∧ ¬ (hrpInp [] [31]).HrpInOk) ∧
    ((hrpInp bc [32]).InOk ∧ (hrpInp bc [32]).HrpInOk ∧ ∃ w ∈ (hrpInp bc [32]).input, w.toNat > 31) := by
  unfold State.InOk State.HrpInOk; decide +kernel

/-- Version 16 with the longest program, version 0 with 20 bytes; version 17 and version 0 with 2 bytes are not valid. -/
theorem witness_Bech32EncoderWritesTheAddress :
    let valid := fun (s : State) (v : Byte) =>
      v.toNat ≤ 16 ∧ 2 ≤ s.inLen.toNat ∧ s.inLen.toNat ≤ 40 ∧ (v = 0 → s.inLen.toNat = 20 ∨ s.inLen.toNat = 32)
    valid (hrpInp bc (List.replicate 40 0)) 16 ∧ valid (hrpInp bc (List.replicate 20 0)) 0 ∧
    ¬ valid (hrpInp bc (List.replicate 20 0)) 17 ∧ ¬ valid (hrpInp bc [0, 0]) 0 ∧
    ¬ valid (hrpInp bc (List.replicate 41 0)) 1 := by decide +kernel

/-- V30, V32: `"bc1sw50qa3jx3s"`, encoded and decoded. -/
theorem witness_Bech32DecodesExactlyWhatItEncodes :
    hrpOk bc = true ∧ programLengthOk 16 2 = true ∧ b32Encode bc 16 [0x75, 0x1e] = bytes 14 0x626331737735307161336a783373 ∧
    b32Decode (bytes 14 0x626331737735307161336a783373) = .ok (bc, 16, [0x75, 0x1e]) := by decide +kernel

theorem witness_Bech32DecoderTakesTheAddressApart :
    (inp (bytes 14 0x626331737735307161336a783373)).input = b32Encode bc 16 [0x75, 0x1e] ∧
    ∀ (h : List Byte) (v : Byte) (p : List Byte), (inp []).input ≠ b32Encode h v p := by
  refine ⟨by decide +kernel, fun h v p e => ?_⟩
  have h1 := congrArg List.length e
  have h2 : (inp []).input.length = 0 := by decide
  rw [h2] at h1
  simp [b32Encode] at h1

/-- Refusals of R179 before the checksum: no `1`; upper case in the HRP (V32); `b` in the data. -/
theorem witness_Bech32DecoderRefusals_characters :
    0x31 ∉ (inp bc).input ∧ (inp [0x42, 0x31, 0x71]).input = [0x42] ++ [0x31] ++ [0x71] ∧ 0x31 ∉ ([0x71] : List Byte) ∧
    hrpOk [0x42] = false ∧ hrpOk bc = true ∧ 0x62 ∉ charset32 ∧ 0x31 ∉ ([0x62] : List Byte) := by decide +kernel

/-- Refusals of R179 from the checksum on: six words that do not verify; six that do (V29's, `bc1gmk9yu`); and data words that verify with their
checksum, of version 17, of version 1 with one word that regroups to nothing, and of version 1 with a program of one byte. -/
theorem witness_Bech32DecoderRefusals_words :
    let verifies := fun data : List Byte => polymod (hrpExpand bc ++ (data ++ createChecksum bc data)) = 1
    polymod (hrpExpand bc ++ [0, 0, 0, 0, 0, 0]) ≠ 1 ∧ verifies [] ∧ (createChecksum bc []).length = 6 ∧
    verifies [17] ∧ 0x31 ∉ wordChars ([17] ++ createChecksum bc [17]) ∧ (∀ x ∈ createChecksum bc [17], x.toNat ≤ 31) ∧
    verifies [1, 0] ∧ verifies (1 :: toWords [0]) ∧ programLengthOk 1 1 = false := by decide +kernel

/-- One word is no byte string's regrouping: it would be 5 leftover bits. -/
theorem witness_Bech32DecoderRefusals_padding (p : List Byte) : [0] ≠ toWords p := by
  intro h
  have h1 := congrArg List.length h
  rw [toWords_length] at h1
  simp at h1
  omega

/-- Each clause at its edge: a script filled to the last byte, and one byte too many. -/
theorem witness_ScriptGrowsByAppending :
    let s := fun n m => { State.reset with inLen := n, scrLen := m }
    ((s 75 180).inLen.toNat ≤ 75 ∧ (s 75 180).scrLen.toNat + 1 + (s 75 180).inLen.toNat = 256) ∧ (s 76 180).inLen.toNat = 76 ∧
    256 < (s 75 181).scrLen.toNat + 1 + (s 75 181).inLen.toNat ∧ (s 0 255).scrLen.toNat + 1 = 256 ∧
    256 < (s 0 256).scrLen.toNat + 1 := by decide

theorem witness_TwoKeyScriptReplacesTheScript :
    let keys := inp (key1 ++ (0x03 :: key2.drop 1))
    let wrong := inp (key1 ++ (0x05 :: key2.drop 1))
    (keys.inLen.toNat = 66 ∧ keys.byteAt .inb 0 = 0x02 ∧ keys.byteAt .inb 33 = 0x03) ∧ (inp (key1 ++ key2 ++ [0])).inLen.toNat ≠ 66 ∧
    (wrong.inLen.toNat = 66 ∧ wrong.byteAt .inb 33 ≠ 0x02 ∧ wrong.byteAt .inb 33 ≠ 0x03) := by decide +kernel

theorem witness_TwoKeyScriptIsTheSerializedSequence :
    key1.length = 33 ∧ key2.length = 33 ∧ key1[0]? = some 0x02 ∧ key2[0]? = some 0x02 := by decide

theorem witness_XferCopiesOutToIn :
    ({ State.reset with outLen := 256 }.mem.wf ∧ { State.reset with outLen := 256 }.outLen.toNat ≤ 256) ∧
    256 < { State.reset with outLen := 257 }.outLen.toNat := by decide

theorem witness_PrependPutsAByteInFront :
    (inp (List.replicate 255 1)).inLen.toNat < 256 ∧ 256 ≤ (inp (List.replicate 256 1)).inLen.toNat := by decide +kernel

end Sys2Proof.Tests
end

section
/-! SUPPORT. Reset: which parts of the state `AtReset` speaks of, the three ways into it, and the two constant registers
(10_state.md R21, R38; 70_reset_and_hazards.md R270, R271). -/

namespace Sys2Proof.Machine

open Sys2Proof

/-- Being at reset is about the block alone: the reset input and what is outside the block have no part in it. -/
theorem AtReset.with_outside {t : State} (h : AtReset t) (r : Bool) (d : Nat) (ops : List HostOp) (ans : List Answer) :
    AtReset { t with resetIn := r, draws := d, host := ops, answers := ans } := h

/-- R38: the block's state right after reset holds every value of the table. -/
theorem atReset_reset : AtReset State.reset := by
  refine ⟨rfl, rfl, rfl, rfl, rfl, rfl, rfl, rfl, rfl, rfl, rfl, rfl, ?shaH, ?rmdH, ?mem, rfl, rfl⟩
  case shaH => decide
  case rmdH => decide
  case mem => exact fun _ => rfl

/-- Whatever the state was, a reset of it is at reset. -/
theorem atReset_softReset (s : State) : AtReset s.softReset :=
  atReset_reset.with_outside s.resetIn s.draws s.host s.answers

/-- R271: a write of CTRL with SRST resets the block, busy or not. -/
theorem writeLoc_ctrl_srst (s : State) (v : Word) (hv : v.getLsbD 1 = true) : s.writeLoc .ctrl v = s.softReset := by
  rw [writeLoc_stored s .ctrl v (.inr (by decide)), State.storeLoc, if_pos hv]

/-- R271: the host's access that resets the block. -/
theorem access_ctrl_srst (s : State) (v : Word) (hr : s.resetIn = false) (hv : v.getLsbD 1 = true) :
    s.access (.write .w32 0x008 v) = { s.softReset with answers := .ok :: s.answers, draws := s.draws + 1 } := by
  rw [access_write_some s 0x008 .ctrl v hr (by decide), writeLoc_ctrl_srst s v hv, softReset_answers_eq, softReset_draws_eq]

/-- R270: the release of the asserted reset input resets the block. -/
theorem hostOp_resetRelease (s : State) (hr : s.resetIn = true) :
    s.hostOp .resetRelease = { s.softReset.tick with resetIn := false } := if_pos hr

/-- A read of state that is not of the output class is answered with its value, busy or not. -/
theorem reads_value (s : State) (off : Nat) (l : Loc) (hr : s.resetIn = false) (hl : locate off = some l)
    (hc : l.cls ≠ .output) : Reads s off (s.value l) := by
  rw [Reads, access_read_some s off l hr hl, readLoc_exact s l (.inr hc)]

/-- Settles O21: each way into reset leaves `State.softReset` up to what is outside the block, and ID and HWVER read their constants. -/
theorem resetGivesEveryRegisterItsValue : Obligations.ResetGivesEveryRegisterItsValue := by
  refine ⟨atReset_reset, fun s v hr hv => ?soft, fun s hr => ?release, fun s hr => ⟨?id, ?hwver⟩⟩
  case soft =>
    rw [access_ctrl_srst s v hr hv]
    exact (atReset_softReset s).with_outside ..
  case release =>
    rw [hostOp_resetRelease s hr]
    exact ⟨(atReset_softReset s).with_outside .., rfl⟩
  case id => exact reads_value s 0x000 .id hr (by decide) (by decide)
  case hwver => exact reads_value s 0x004 .hwver hr (by decide) (by decide)

end Sys2Proof.Machine
end

section
/-! SUPPORT. The map of the register window and accesses off it (20_memory.md R62 to R66), and the word of the HRP window that holds only
three bytes of HRP (R67, R68). -/

namespace Sys2Proof.Machine

open Sys2Proof

/-- R62, R63: an offset reaches nothing exactly where it is misaligned, reserved or beyond the window's last buffer. -/
theorem locate_eq_none_iff (off : Nat) : locate off = none ↔
    off % 4 ≠ 0 ∨ (0x028 ≤ off ∧ off < 0x040) ∨ (0x074 ≤ off ∧ off < 0x100) ∨ (0x454 ≤ off ∧ off < 0x500) ∨ 0x600 ≤ off := by
  unfold locate Config.window
  simp only [ite_eq_iff, reduceCtorEq, and_false, false_or, and_true]
  omega

/-- R66: what an access reaches is what stands at its offset, and only an access of 32 bits reaches it. -/
theorem target_eq_some_iff (width : Width) (off : Nat) (l : Loc) : target width off = some l ↔ width = .w32 ∧ locate off = some l := by
  cases width <;> simp [target]

/-- R63, R66: an access reaches nothing exactly at another width or where nothing stands at its offset. -/
theorem target_eq_none_iff (width : Width) (off : Nat) : target width off = none ↔ width ≠ .w32 ∨ locate off = none := by
  cases width <;> simp [target]

/-- No write of a location changes the answers got or the draw number. -/
theorem writeLoc_outside (s : State) (l : Loc) (v : Word) :
    (s.writeLoc l v).answers = s.answers ∧ (s.writeLoc l v).draws = s.draws := by
  obtain h | ⟨-, -, h⟩ | ⟨-, -, h⟩ | ⟨-, h⟩ | ⟨-, -, h⟩ | ⟨-, -, h⟩ | ⟨-, -, h⟩ | ⟨-, -, h⟩ | ⟨-, k, -, h⟩ | ⟨-, k, -, h⟩ :=
    writeLoc_cases s l v <;> rw [h] <;> exact ⟨rfl, rfl⟩

/-- R65: a write that reaches a location is answered ok. -/
theorem access_write_ok (s : State) (off : Nat) (l : Loc) (v : Word) (hr : s.resetIn = false) (hl : locate off = some l) :
    s.access (.write .w32 off v) = { s.writeLoc l v with answers := .ok :: s.answers, draws := s.draws + 1 } := by
  obtain ⟨hans, hdraws⟩ := writeLoc_outside s l v
  rw [access_write_some s off l v hr hl, hans, hdraws]

/-- Settles O23: off the map means that `target` gives nothing. -/
theorem busErrorExactlyOffTheMap : Obligations.BusErrorExactlyOffTheMap := by
  intro s off v width hr offMap
  have hmap : target width off = none ↔ offMap := by rw [target_eq_none_iff, locate_eq_none_iff]
  constructor
  · intro h
    have ht := hmap.2 h
    exact ⟨access_read_none s width off hr ht, access_write_none s width off v hr ht⟩
  · intro h
    obtain ⟨l, ht⟩ := Option.ne_none_iff_exists'.1 (mt hmap.1 h)
    obtain ⟨rfl, hl⟩ := (target_eq_some_iff width off l).1 ht
    rw [access_read_some s off l hr hl, access_write_ok s off l v hr hl]
    exact ⟨⟨_, rfl⟩, rfl⟩

/-- R67: byte `i + j` of a buffer, once `t` was written from byte `i` on, is seen as `t`'s byte `j`. -/
theorem byteAt_of_wrote (s : State) (m : Memory) (b : Buf) (i j : Nat) (t : List Byte) (hw : Wrote m s.mem b i t)
    (hj : j < t.length) : s.byteAt b (i + j) = t[j] := by
  apply byteAt_known
  rw [hw, if_pos (by omega), show b.base + (i + j) - (b.base + i) = j by omega, List.getElem?_eq_getElem hj]

/-- R67: the three bytes in bits 23:0 of a word, the least significant first. -/
def lowBytes (v : Word) : List Byte := [Word.byte v 0, Word.byte v 1, Word.byte v 2]

/-- The bytes in bits 23:0 are determined by those bits. -/
theorem lowBytes_congr {v v' : Word} (h : v.extractLsb' 0 24 = v'.extractLsb' 0 24) : lowBytes v = lowBytes v' := by
  have hbyte : ∀ (w : Word) (j : Nat), j < 3 → Word.byte w j = (w.extractLsb' 0 24).extractLsb' (8 * j) 8 := by
    intro w j hj
    rw [BitVec.extractLsb'_extractLsb'_of_le (by omega)]
    rfl
  simp only [lowBytes, hbyte, Nat.reduceLT, h]

/-- A word's three low bytes, with a zero byte above them, are the word with bits 31:24 cleared. -/
theorem le32_low24 (v : Word) : le32 (Word.byte v 0) (Word.byte v 1) (Word.byte v 2) 0 = v &&& 0x00FFFFFF := by
  have hmask : ∀ j < 32, (0x00FFFFFF : Word).getLsbD j = decide (j < 24) := by decide
  apply BitVec.eq_of_getLsbD_eq
  intro j hj
  simp only [le32, Word.byte, BitVec.getLsbD_and, hmask j hj]
  grind

/-- The most significant byte of a word put together from four bytes is the last of them. -/
theorem byte_three_le32 (b0 b1 b2 b3 : Byte) : Word.byte (le32 b0 b1 b2 b3) 3 = b3 := by
  have h := le32bytes_le32 b0 b1 b2 b3
  simp only [le32bytes, List.cons.injEq] at h
  obtain ⟨-, -, -, h3, -⟩ := h
  exact h3

/-- R62: the word at 0x450 is the last of the HRP window. -/
theorem locate_hrp_last : locate 0x450 = some (.buf .hrp 20) := locate_buf .hrp 20 (by decide)

/-- R68: bits 31:24 of the last word of the HRP window are no byte of HRP and read 0. -/
theorem value_hrp_last (s : State) :
    s.value (.buf .hrp 20) = le32 (s.byteAt .hrp 80) (s.byteAt .hrp 81) (s.byteAt .hrp 82) 0 := rfl

/-- R68: a store to the last word of the HRP window writes the word's three low bytes, and ignores the fourth. -/
theorem storeWord_hrp_last (s : State) (v : Word) :
    s.storeWord .hrp 20 v = { s with mem := s.mem.setBufs .hrp 80 ((lowBytes v).map some) } := rfl

/-- R68, R280: a write of the last word of the HRP window stores its three low bytes, or is dropped while a command runs. -/
theorem writeLoc_hrp_last (s : State) (v : Word) : s.writeLoc (.buf .hrp 20) v =
    if s.busy then s.dropWrite else { s with mem := s.mem.setBufs .hrp 80 ((lowBytes v).map some) } := by
  split
  · rename_i hb
    exact writeLoc_dropped s _ v hb rfl
  · rename_i hb
    rw [writeLoc_stored s _ v (.inl (Bool.eq_false_iff.2 hb)), State.storeLoc, storeWord_hrp_last]

/-- What a store to the last word of the HRP window does to memory. -/
theorem wrote_hrp_last (m : Memory) (v : Word) : Wrote m (m.setBufs .hrp 80 ((lowBytes v).map some)) .hrp 80 (lowBytes v) :=
  wrote_setBufs m .hrp 80 (lowBytes v) (by simp [lowBytes, Buf.cap, Config.hrpCap])

/-- No write of the last word of the HRP window reaches past HRP's 83 bytes. -/
theorem mem_read_writeLoc_hrp_last (s : State) (v : Word) :
    (s.writeLoc (.buf .hrp 20) v).mem.read 0x453 = s.mem.read 0x453 := by
  rw [writeLoc_hrp_last]
  split
  · rfl
  · exact (wrote_hrp_last s.mem v 0x453).trans (if_neg (by simp [lowBytes, Buf.base]))

/-- R68: the last word of the HRP window, once a word's three low bytes stand in it, reads as that word with 0 in bits 31:24. -/
theorem reads_hrp_last_of_wrote (s : State) (m : Memory) (v : Word) (hr : s.resetIn = false)
    (hw : Wrote m s.mem .hrp 80 (lowBytes v)) : Reads s 0x450 (v &&& 0x00FFFFFF) := by
  have hbyte := fun j hj => byteAt_of_wrote s m .hrp 80 j (lowBytes v) hw hj
  have hvalue : s.value (.buf .hrp 20) = v &&& 0x00FFFFFF := by
    rw [value_hrp_last, hbyte 0 (by simp [lowBytes]), hbyte 1 (by simp [lowBytes]), hbyte 2 (by simp [lowBytes])]
    exact le32_low24 v
  exact hvalue ▸ reads_value s 0x450 _ hr locate_hrp_last (by decide)

/-- Settles O32: of the last word of the HRP window only the three low bytes are stored, and only they are read. -/
theorem lastHrpLaneReadsZeroAndIgnoresWrites : Obligations.LastHrpLaneReadsZeroAndIgnoresWrites := by
  intro s hr
  have hwrite := fun v => access_write_ok s 0x450 (.buf .hrp 20) v hr locate_hrp_last
  refine ⟨⟨_, reads_value s 0x450 _ hr locate_hrp_last (by decide), ?lane⟩, fun v v' h => ?agree, fun v => ?frame,
    fun hb v => ⟨s.mem.setBufs .hrp 80 ((lowBytes v).map some), ?stored, wrote_hrp_last s.mem v, ?back⟩⟩
  case lane => exact byte_three_le32 _ _ _ _
  case agree => rw [hwrite, hwrite, writeLoc_hrp_last, writeLoc_hrp_last, lowBytes_congr h]
  case frame =>
    rw [hwrite]
    exact mem_read_writeLoc_hrp_last s v
  case stored => rw [hwrite, writeLoc_hrp_last, hb]; rfl
  case back =>
    rw [hwrite, writeLoc_hrp_last, hb]
    exact reads_hrp_last_of_wrote _ s.mem v hr (wrote_hrp_last s.mem v)

end Sys2Proof.Machine
end

section
/-! SUPPORT. The chaining registers: what `Exec` of a command other than a core's streaming ones answers depends on no value of that core's
chaining register and writes none (40_hash.md R124). -/

namespace Sys2Proof.Machine

open Sys2Proof

/-- A value for one core's chaining register: `SHA_H0..7` (10_state.md R30) or `RMD_H0..4` (R31). -/
inductive ChainValue where
  | sha (v : ShaChain)
  | rmd (v : RmdChain)

/-- The state with the value in its core's chaining register. -/
def State.withChain (s : State) : ChainValue → State
  | .sha v => { s with shaH := v }
  | .rmd v => { s with rmdH := v }

/-- R130 to R133: the streaming commands of the value's core. -/
def ChainValue.UsedBy (i : Instr) : ChainValue → Prop
  | .sha _ => i = .shaInit ∨ i = .shaBlock
  | .rmd _ => i = .rmdInit ∨ i = .rmdBlock

/-- The update writes the chaining register of the value's core. -/
def Update.setsChain : Update → ChainValue → Bool
  | .shaH _, .sha _ => true
  | .rmdH _, .rmd _ => true
  | _, _ => false

/-- A completion step with this answer leaves the value where it stands, and does all else as without it. -/
def Spares (c : ChainValue) (r : Except ErrCode (List Update)) : Prop :=
  ∀ s : State, (s.withChain c).completed r = (s.completed r).withChain c

section

variable (c : ChainValue)

/-- An update of anything else commutes with placing the value. -/
theorem apply_withChain (s : State) (x : Update) (hx : x.setsChain c = false) :
    (s.withChain c).apply x = (s.apply x).withChain c := by
  cases x with
  | shaH v =>
    cases c with
    | sha => cases hx
    | rmd => rfl
  | rmdH v =>
    cases c with
    | sha => rfl
    | rmd => cases hx
  | buf | inLen | outLen | hrpLen | scrLen | result => cases c <;> rfl

/-- A list of updates of anything else commutes with placing the value. -/
theorem applyAll_withChain (s : State) (u : List Update) (hu : ∀ x ∈ u, x.setsChain c = false) :
    (s.withChain c).applyAll u = (s.applyAll u).withChain c := by
  induction u generalizing s with
  | nil => rfl
  | cons x u ih =>
    obtain ⟨hx, hu⟩ := List.forall_mem_cons.1 hu
    have hx := apply_withChain c s x hx
    have ih := ih (s.apply x) hu
    simpa only [State.applyAll, List.foldl_cons, hx] using ih

/-- An error spares the value: it makes no update. -/
theorem spares_error (e : ErrCode) : Spares c (.error e) := by
  intro s
  cases c <;> rfl

/-- Success spares the value when every update is of anything else. -/
theorem spares_ok {u : List Update} (hu : u.all (! ·.setsChain c) = true) : Spares c (.ok u) := by
  intro s
  have hu : ∀ x ∈ u, x.setsChain c = false := by simpa using hu
  rw [completed_ok, completed_ok, applyAll_withChain c s u hu]
  cases c <;> rfl

/-- A check adds an error at most. -/
theorem spares_check (p : Prop) [Decidable p] (e : ErrCode) {r : Except ErrCode (List Update)} (hr : Spares c r) :
    Spares c (if p then .error e else r) := by
  split
  · exact spares_error c e
  · exact hr

/-- `InBytes()` adds an error at most, whatever bytes it gives. -/
theorem spares_withIn (s : State) {k : List Byte → Except ErrCode (List Update)} (hk : ∀ m, Spares c (k m)) :
    Spares c (s.withIn k) := by
  unfold State.withIn
  split
  · exact spares_error c _
  · exact hk _

/-- `HrpBytes()` adds an error at most, whatever bytes it gives. -/
theorem spares_withHrp (s : State) {k : List Byte → Except ErrCode (List Update)} (hk : ∀ h, Spares c (k h)) :
    Spares c (s.withHrp k) := by
  unfold State.withHrp
  split
  · exact spares_error c _
  · exact hk _

/-- R124: a command that is no streaming command of the core has one answer, whatever value the core's chaining register holds, and the answer
spares that value. The cases are grouped by what stands before the updates: operands, then checks. -/
theorem exec_answer (i : Instr) (hi : ¬ c.UsedBy i) (s : State) :
    ∃ r, exec i s = s.complete r ∧ exec i (s.withChain c) = (s.withChain c).complete r ∧ Spares c r := by
  cases i with
  | scrClear | scrHash => exact ⟨_, rfl, by cases c <;> rfl, spares_ok c rfl⟩
  | scrOp | xfer => exact ⟨_, rfl, by cases c <;> rfl, spares_check c _ _ (spares_ok c rfl)⟩
  | b32Hrpexp => exact ⟨_, rfl, by cases c <;> rfl, spares_withHrp c s fun _ => spares_ok c rfl⟩
  | sha256 | rmd160 | sha256d | checksum4 | b58Enc | b58chkEnc | b32Towords =>
    exact ⟨_, rfl, by cases c <;> rfl, spares_withIn c s fun _ => spares_ok c rfl⟩
  | b32Polymod | prepend =>
    exact ⟨_, rfl, by cases c <;> rfl, spares_withIn c s fun _ => spares_check c _ _ (spares_ok c rfl)⟩
  | hash160 | scrPush | scrMulti2 =>
    exact ⟨_, rfl, by cases c <;> rfl, spares_withIn c s fun _ => spares_check c _ _ (spares_check c _ _ (spares_ok c rfl))⟩
  | b58Dec | b58chkDec | b32Dec =>
    refine ⟨_, rfl, by cases c <;> rfl, spares_withIn c s fun _ => ?_⟩
    split
    · exact spares_error c _
    · exact spares_ok c rfl
  | b32Fromwords =>
    refine ⟨_, rfl, by cases c <;> rfl, spares_withIn c s fun _ => spares_check c _ _ ?_⟩
    split
    · exact spares_error c _
    · exact spares_ok c rfl
  | b32Checksum =>
    exact ⟨_, rfl, by cases c <;> rfl, spares_withIn c s fun _ => spares_withHrp c s fun _ => spares_check c _ _ (spares_ok c rfl)⟩
  | b32Enc =>
    exact ⟨_, rfl, by cases c <;> rfl, spares_withIn c s fun _ => spares_withHrp c s fun _ =>
      spares_check c _ _ (spares_check c _ _ (spares_ok c rfl))⟩
  | shaInit =>
    cases c with
    | sha => exact absurd (.inl rfl) hi
    | rmd => exact ⟨_, rfl, rfl, spares_ok _ rfl⟩
  | shaBlock =>
    cases c with
    | sha => exact absurd (.inr rfl) hi
    | rmd => exact ⟨_, rfl, rfl, spares_withIn _ s fun _ => spares_check _ _ _ (spares_ok _ rfl)⟩
  | rmdInit =>
    cases c with
    | sha => exact ⟨_, rfl, rfl, spares_ok _ rfl⟩
    | rmd => exact absurd (.inl rfl) hi
  | rmdBlock =>
    cases c with
    | sha => exact ⟨_, rfl, rfl, spares_withIn _ s fun _ => spares_check _ _ _ (spares_ok _ rfl)⟩
    | rmd => exact absurd (.inr rfl) hi

/-- R124: such a command does the same whatever value the chaining register holds. -/
theorem exec_withChain (i : Instr) (hi : ¬ c.UsedBy i) {s t : State} (h : exec i s = .next t) :
    exec i (s.withChain c) = .next (t.withChain c) := by
  obtain ⟨r, hs, hc, hr⟩ := exec_answer c i hi s
  have ht : s.completed r = t := Host.Outcome.next.inj (hs.symm.trans h)
  rw [hc, State.complete, hr s, ht]

/-- R124: such a command keeps the value that the chaining register holds. -/
theorem exec_keeps_chain (i : Instr) (hi : ¬ c.UsedBy i) {s t : State} (h : exec i s = .next t) (hs : s.withChain c = s) :
    t.withChain c = t := by
  have hc := exec_withChain c i hi h
  rw [hs, h] at hc
  exact (Host.Outcome.next.inj hc).symm

end

/-- Settles O17: doing the same with every value of the chaining register includes doing so with the one it holds, which therefore stays. -/
theorem onlyStreamingCommandsUseTheChains : Obligations.OnlyStreamingCommandsUseTheChains := by
  intro i s t h
  refine ⟨fun hinit hblock => ?sha, fun hinit hblock => ?rmd⟩
  case sha =>
    have hi : ¬ (i = .shaInit ∨ i = .shaBlock) := not_or.2 ⟨hinit, hblock⟩
    have hkept := exec_keeps_chain (.sha s.shaH) i hi h rfl
    exact ⟨(congrArg State.shaH hkept).symm, fun v => exec_withChain (.sha v) i hi h⟩
  case rmd =>
    have hi : ¬ (i = .rmdInit ∨ i = .rmdBlock) := not_or.2 ⟨hinit, hblock⟩
    have hkept := exec_keeps_chain (.rmd s.rmdH) i hi h rfl
    exact ⟨(congrArg State.rmdH hkept).symm, fun v => exec_withChain (.rmd v) i hi h⟩

end Sys2Proof.Machine
end

section
/-! SUPPORT. Issue by a write of CMD, and the completion of a word that is no command (60_exceptions.md R243, R244, R247). -/

namespace Sys2Proof.Machine

open Sys2Proof

/-- R243: the host's access that issues a command word, legal or not. -/
theorem access_cmd_idle (s : State) (v : Word) (hr : s.resetIn = false) (hb : s.busy = false) :
    s.access (.write .w32 0x010 v) = { s.issue v with answers := .ok :: s.answers, draws := s.draws + 1 } := by
  rw [access_write_ok s 0x010 .cmd v hr (by decide), writeLoc_stored s .cmd v (.inl hb), State.storeLoc]

/-- R243, R280: while a command runs a write of CMD is dropped. -/
theorem access_cmd_busy (s : State) (v : Word) (hr : s.resetIn = false) (hb : s.busy = true) :
    s.access (.write .w32 0x010 v) = { s.dropWrite with answers := .ok :: s.answers, draws := s.draws + 1 } := by
  rw [access_write_ok s 0x010 .cmd v hr (by decide), writeLoc_dropped s .cmd v hb rfl]

/-- R251, R243: an issued command has not completed, so the interrupt output is low. -/
@[simp] theorem issue_irq_eq (s : State) (v : Word) : (s.issue v).irq = false := Bool.and_false s.ie

/-- R247: the completion step of a word that the decoder rejects, whichever check of R96 it fails. -/
theorem engineStep_rejected (s : State) (w : Word) (e : Reject) (hd : decode w = .error e) :
    s.engineStep w = .next (s.failed .illegalCommand) := by
  rw [State.engineStep, hd]
  exact congrArg Host.Outcome.next (completed_error s .illegalCommand)

/-- Settles O6: idle, the write is an issue; busy, it is dropped. -/
theorem cmdWriteIssuesTheCommand : Obligations.CmdWriteIssuesTheCommand := by
  intro s v hr
  exact ⟨fun hb => ⟨Config.latencyTail s.draws, _, access_cmd_idle s v hr hb, rfl, rfl, issue_irq_eq s v⟩, access_cmd_busy s v hr⟩

/-- Settles O7: no part of an issue asks whether the word is legal; `Exec` asks it in the completion step, which is then a failed one. -/
theorem illegalCommandCompletesWithItsCode : Obligations.IllegalCommandCompletesWithItsCode := by
  intro s w e hr hd
  constructor
  · intro hb
    exact ⟨_, access_cmd_idle s w hr hb, rfl, rfl, rfl⟩
  · intro hp hcmd hn
    have hstep : step s = .next (s.failed .illegalCommand) := (step_due s w hr hp hn).trans (engineStep_rejected s w e hd)
    exact ⟨_, hstep, rfl, hcmd⟩

end Sys2Proof.Machine
end

section
/-! SUPPORT. The interrupt output: what enables, masks and clears it, and that no other step lets it fall (60_exceptions.md R251, R252). -/

namespace Sys2Proof.Machine

open Sys2Proof

/-- R22, R65: the host's access that sets or clears IE, without SRST. -/
theorem access_ctrl_ie (s : State) (v : Word) (hr : s.resetIn = false) (hv : v.getLsbD 1 = false) :
    s.access (.write .w32 0x008 v) = { s with ie := v.getLsbD 0, answers := .ok :: s.answers, draws := s.draws + 1 } := by
  have hstore : s.writeLoc .ctrl v = { s with ie := v.getLsbD 0 } := by
    rw [writeLoc_stored s .ctrl v (.inr (by decide)), State.storeLoc, hv]
    rfl
  rw [access_write_ok s 0x008 .ctrl v hr (by decide), hstore]

/-- R23, R65: the host's write of STATUS, busy or not. -/
theorem access_status (s : State) (v : Word) (hr : s.resetIn = false) :
    s.access (.write .w32 0x00C v) = { s.writeStatus v with answers := .ok :: s.answers, draws := s.draws + 1 } := by
  rw [access_write_ok s 0x00C .status v hr (by decide), writeLoc_stored s .status v (.inr (by decide)), State.storeLoc]

/-- R251: after a write of STATUS, IRQ is 1 where it was and DONE is not written 1. -/
@[simp] theorem writeStatus_irq_eq (s : State) (v : Word) : (s.writeStatus v).irq = (s.irq && !v.getLsbD 1) :=
  (Bool.and_assoc ..).symm

/-- R251: a completion leaves DONE 1, so IRQ is then IE. -/
theorem completed_irq_eq (s : State) (r : Except ErrCode (List Update)) : (s.completed r).irq = s.ie := by
  obtain ⟨-, hdone, -, -⟩ := completed_status s r
  rw [State.irq, hdone, Bool.and_true]
  cases r with
  | error e => rfl
  | ok u =>
    obtain ⟨hie, -⟩ := applyAll_frame s u
    exact hie

/-- No read changes IRQ. -/
theorem access_read_irq_eq (s : State) (width : Width) (off : Nat) : (s.access (.read width off)).irq = s.irq := by
  obtain ⟨ans, h⟩ := access_read s width off
  rw [h]
  rfl

/-- R252: the host op `op`, next in state `s`, can let IRQ fall: it acknowledges DONE, issues a command, resets the block or masks IRQ. -/
def HostOp.LowersIrq (op : HostOp) (s : State) : Prop :=
  (∃ v : Word, op = wr 0x00C v ∧ v.getLsbD 1 = true) ∨ (∃ v : Word, op = wr 0x010 v ∧ s.busy = false) ∨ op.resets = true ∨
    (op = .resetRelease ∧ s.resetIn = true) ∨ ∃ v : Word, op = wr 0x008 v ∧ v.getLsbD 0 = false

/-- R252, R270, R271: a reset clears IRQ. -/
theorem HostOp.LowersIrq.of_resets {op : HostOp} {s : State} (h : op.resets = true) : op.LowersIrq s := .inr (.inr (.inl h))

section
variable {s : State} (hi : s.irq = true)
include hi

/-- R252: among the writes of a location, only the four of `HostOp.LowersIrq` let IRQ fall. -/
theorem writeLoc_irq (l : Loc) (v : Word) : (s.writeLoc l v).irq = true ∨ (wr l.off v).LowersIrq s := by
  obtain h | ⟨rfl, hv, -⟩ | ⟨rfl, -, h⟩ | ⟨rfl, h⟩ | ⟨-, -, h⟩ | ⟨hb, rfl, -⟩ | ⟨-, -, h⟩ | ⟨-, -, h⟩ | ⟨-, k, -, h⟩ | ⟨-, k, -, h⟩ :=
    writeLoc_cases s l v
  · exact .inl (h.symm ▸ hi)
  · exact .inr (.of_resets hv)
  · cases hv : v.getLsbD 0 with
    | false => exact .inr (.inr (.inr (.inr (.inr ⟨v, rfl, hv⟩))))
    | true =>
      obtain ⟨-, hdone⟩ := (Bool.and_eq_true _ _).mp hi
      exact .inl (by rw [h, State.irq, hv, hdone]; rfl)
  · cases hv : v.getLsbD 1 with
    | true => exact .inr (.inl ⟨v, rfl, hv⟩)
    | false => exact .inl (by rw [h, writeStatus_irq_eq, hi, hv]; rfl)
  · exact .inl (h ▸ hi)
  · exact .inr (.inr (.inl ⟨v, rfl, hb⟩))
  all_goals exact .inl (h ▸ hi)

/-- R252: an access lets IRQ fall only as a write of what stands at its offset. -/
theorem access_irq (a : BusAccess) : (s.access a).irq = true ∨ (HostOp.access a).LowersIrq s := by
  cases a with
  | read width off => exact .inl ((access_read_irq_eq s width off).trans hi)
  | write width off v =>
    rcases Bool.eq_false_or_eq_true s.resetIn with hr | hr
    · exact .inl (access_noAnswer s _ hr ▸ hi)
    · cases ht : target width off with
      | none => exact .inl (access_write_none s width off v hr ht ▸ hi)
      | some l =>
        obtain ⟨rfl, hl⟩ := (target_eq_some_iff width off l).1 ht
        rw [access_write_ok s off l v hr hl, locate_off off l hl]
        exact writeLoc_irq hi l v

/-- R252: a host op keeps IRQ high or is one of those that can lower it. -/
theorem hostOp_irq (op : HostOp) : (s.hostOp op).irq = true ∨ op.LowersIrq s := by
  cases op with
  | access a => exact access_irq hi a
  | idle => exact .inl hi
  | wait =>
    have hread := (access_read_irq_eq s .w32 0x00C).trans hi
    rw [State.hostOp]
    split
    · exact .inl hread
    · exact .inl hread
  | waitIrq => exact .inl (by rw [State.hostOp, if_pos hi]; exact hi)
  | rdOut => exact .inl ((access_read_irq_eq s .w32 0x018).trans hi)
  | resetAssert => exact .inr (.of_resets rfl)
  | resetRelease => exact .inr (.of_resets rfl)

/-- R252: a host step keeps IRQ high or its op is one of those that can lower it. -/
theorem hostStep_irq : s.hostStep.irq = true ∨ ∃ op rest, s.host = op :: rest ∧ op.LowersIrq s := by
  rw [State.hostStep]
  split
  case h_1 => exact .inl hi
  case h_2 op rest hh => exact (hostOp_irq (s := { s with host := rest }) hi op).imp_right fun h => ⟨op, rest, hh, h⟩

/-- R252: a step keeps IRQ high or its host op is one of those that can lower it; no completion step lowers it. -/
theorem step_irq {t : State} (ht : step s = .next t) : t.irq = true ∨ ∃ op rest, s.host = op :: rest ∧ op.LowersIrq s := by
  obtain ⟨-, h⟩ | ⟨c, n, -, -, -, h⟩ | ⟨c, -, -, -, h⟩ := step_cases s
  · obtain rfl := Host.Outcome.next.inj (h.symm.trans ht)
    exact hostStep_irq hi
  · obtain rfl := Host.Outcome.next.inj (h.symm.trans ht)
    exact hostStep_irq (s := { s with countdown := n }) hi
  · obtain ⟨r, hc⟩ := engineStep_completed s c
    obtain rfl := Host.Outcome.next.inj (hc.symm.trans (h.symm.trans ht))
    obtain ⟨hie, -⟩ := (Bool.and_eq_true _ _).mp hi
    exact .inl ((completed_irq_eq s r).trans hie)

end

/-- Settles O33: each event is one access or op of the host, and a step without such an op leaves a high IRQ high. -/
theorem irqIsEnabledMaskedAndCleared : Obligations.IrqIsEnabledMaskedAndCleared := by
  refine ⟨fun s v hr => ⟨fun hv => ?mask, fun hv => ?status, fun hb => ?issue, fun hv => ?srst, ?read⟩, fun s hr => ?release,
    fun s t ht hi hlow => ?falls⟩
  case mask =>
    rw [access_ctrl_ie s v hr hv]
    exact ⟨rfl, rfl⟩
  case status =>
    rw [access_status s v hr]
    exact (writeStatus_irq_eq s v).trans (by rw [hv, Bool.not_true, Bool.and_false])
  case issue =>
    rw [access_cmd_idle s v hr hb]
    exact issue_irq_eq s v
  case srst => rw [access_ctrl_srst s v hr hv]; rfl
  case read => exact access_read_irq_eq s .w32 0x00C
  case release => rw [hostOp_resetRelease s hr]; rfl
  case falls => exact (step_irq hi ht).resolve_left (Bool.eq_false_iff.1 hlow)

end Sys2Proof.Machine
end

section
/-! SUPPORT. Accesses by the class of what stands at their offset: reads and writes while a command runs, and writes that take effect whether one
runs or not (10_state.md R34; 20_memory.md R62, R65; 70_reset_and_hazards.md R280 to R282). -/

namespace Sys2Proof.Machine

open Sys2Proof

/-- R34, R62: output-class state stands exactly at these offsets. -/
theorem locate_output_iff (off : Nat) : (∃ l, locate off = some l ∧ l.cls = .output) ↔ off % 4 = 0 ∧
    (off = 0x018 ∨ off = 0x020 ∨ off = 0x024 ∨ (0x040 ≤ off ∧ off < 0x074) ∨ (0x200 ≤ off ∧ off < 0x400) ∨
      (0x500 ≤ off ∧ off < 0x600)) := by
  rw [← Option.map_eq_some_iff]
  unfold locate Config.window
  simp only [apply_ite (Option.map Loc.cls), Option.map_some, Option.map_none, Loc.cls, ite_eq_iff, Option.some.injEq, reduceCtorEq,
    and_false, false_or, or_false, and_true]
  omega

/-- R34, R62: control-class and input-class state stands at these offsets. -/
theorem locate_not_output (off : Nat) (hm : off % 4 = 0)
    (hoff : off < 0x018 ∨ off = 0x01C ∨ (0x100 ≤ off ∧ off < 0x200) ∨ (0x400 ≤ off ∧ off < 0x454)) :
    ∃ l, locate off = some l ∧ l.cls ≠ .output := by
  have hmapped : locate off ≠ none := by rw [Ne, locate_eq_none_iff]; omega
  obtain ⟨l, hl⟩ := Option.ne_none_iff_exists'.1 hmapped
  refine ⟨l, hl, fun hc => ?_⟩
  obtain ⟨-, hout⟩ := (locate_output_iff off).1 ⟨l, hl, hc⟩
  omega

/-- R34, R62: control-class state stands below CMD. -/
theorem Loc.off_lt_of_control (l : Loc) (hc : l.cls = .control) : l.off < 0x010 := by
  cases l with
  | id | hwver | ctrl | status => decide
  | cmd | inLen | outLen | hrpLen | scrLen | result | shaH | rmdH => cases hc
  | buf b k => cases b <;> cases hc

/-- R34, R62: input-class state stands at these offsets. -/
theorem locate_input (off : Nat) (hm : off % 4 = 0)
    (hoff : off = 0x010 ∨ off = 0x014 ∨ off = 0x01C ∨ (0x100 ≤ off ∧ off < 0x200) ∨ (0x400 ≤ off ∧ off < 0x454)) :
    ∃ l, locate off = some l ∧ l.cls = .input := by
  obtain ⟨l, hl, hout⟩ := locate_not_output off hm (by omega)
  cases hc : l.cls with
  | control =>
    have hlow := l.off_lt_of_control hc
    rw [← locate_off off l hl] at hlow
    omega
  | input => exact ⟨l, hl, hc⟩
  | output => exact absurd hc hout

/-- R282: while a command runs, a read of output-class state is answered with the free word of the draw number. -/
theorem reads_draw (s : State) (off : Nat) (l : Loc) (hr : s.resetIn = false) (hb : s.busy = true) (hl : locate off = some l)
    (hc : l.cls = .output) : Reads s off (Config.freeWord s.draws) := by
  rw [Reads, access_read_some s off l hr hl, readLoc_draw s l hb hc]

/-- Settles O27: the class of what stands at an offset decides whether a read of it is a draw. -/
theorem busyReadsOfOutputsAreDraws : Obligations.BusyReadsOfOutputsAreDraws := by
  intro s off hr hb hm
  constructor
  · intro hoff
    obtain ⟨l, hl, hc⟩ := (locate_output_iff off).2 ⟨hm, hoff⟩
    exact reads_draw s off l hr hb hl hc
  · intro hoff
    obtain ⟨l, hl, hc⟩ := locate_not_output off hm hoff
    exact ⟨l, hl, reads_value s off l hr hl hc⟩

/-- Settles O28: what stands at these offsets is of the input class, so the write is dropped. -/
theorem writesWhileBusyAreDropped : Obligations.WritesWhileBusyAreDropped := by
  intro s off v hr hb hm hoff
  obtain ⟨l, hl, hc⟩ := locate_input off hm hoff
  rw [access_write_ok s off l v hr hl, writeLoc_dropped s l v hb hc, State.dropWrite]

/-- R65: output-class state is read-only, busy or not. -/
theorem writeLoc_output (s : State) (l : Loc) (v : Word) (hc : l.cls = .output) : s.writeLoc l v = s := by
  rw [writeLoc_stored s l v (.inr (by rw [hc]; decide))]
  cases l with
  | outLen | scrLen | result | shaH | rmdH => rfl
  | id | hwver | ctrl | status | cmd | inLen | hrpLen => cases hc
  | buf b k =>
    cases b with
    | out | scr => rfl
    | inb | hrp => cases hc

/-- R65: a write of state that a write leaves as it is gets its answer and does nothing else. -/
theorem access_write_ignored (s : State) (off : Nat) (l : Loc) (v : Word) (hr : s.resetIn = false) (hl : locate off = some l)
    (hw : s.writeLoc l v = s) :
    s.access (.write .w32 off v) = { s with answers := .ok :: s.answers, draws := s.draws + 1 } := by
  rw [access_write_ok s off l v hr hl, hw]

/-- R271: once SRST is written, nothing in the state but the host, the answers it got and the draw number is other than right after reset. -/
theorem softReset_eq (s : State) (hr : s.resetIn = false) :
    s.softReset = { State.reset with host := s.host, answers := s.answers, draws := s.draws } := by
  rw [State.softReset, hr]
  rfl

/-- Settles O29: CTRL and STATUS are of the control class, so no write of them is dropped; ID, HWVER and the output class store nothing. -/
theorem controlWritesTakeEffectAlways : Obligations.ControlWritesTakeEffectAlways := by
  intro s off v hr
  refine ⟨access_ctrl_ie s v hr, fun hv => ?srst, access_status s v hr, fun hm hoff => ?readOnly⟩
  case srst => rw [access_ctrl_srst s v hr hv, softReset_eq s hr]
  case readOnly =>
    rcases hoff with rfl | rfl | hout
    · exact access_write_ignored s 0x000 .id v hr (by decide) (writeLoc_stored s .id v (.inr (by decide)))
    · exact access_write_ignored s 0x004 .hwver v hr (by decide) (writeLoc_stored s .hwver v (.inr (by decide)))
    · obtain ⟨l, hl, hc⟩ := (locate_output_iff off).2 ⟨hm, hout⟩
      exact access_write_ignored s off l v hr hl (writeLoc_output s l v hc)

end Sys2Proof.Machine
end

section
/-! SUPPORT. A running command: what no host step changes short of a reset, and the steps that lead to the command's completion
(20_memory.md R74; 60_exceptions.md R244; 70_reset_and_hazards.md R280, R284). -/

namespace Sys2Proof.Machine

open Sys2Proof

/-- R34, R74: what no host op short of a reset changes while a command runs, the countdown included: the state with CTRL.IE, DONE, ERR, HAZ and
what is outside the block blanked out. -/
def State.frozen (s : State) : State :=
  { s with ie := false, done := false, err := false, haz := false, draws := 0, host := [], answers := [] }

/-- States that agree on what is frozen differ in the blanked fields alone. -/
theorem eq_of_frozen_eq {s t : State} (h : t.frozen = s.frozen) :
    t = { s with ie := t.ie, done := t.done, err := t.err, haz := t.haz, draws := t.draws, host := t.host, answers := t.answers } := by
  have hfill : t = { t.frozen with ie := t.ie, done := t.done, err := t.err, haz := t.haz, draws := t.draws, host := t.host,
                                   answers := t.answers } := rfl
  rw [h] at hfill
  exact hfill

/-- What an access does: it is answered and changes nothing else, or it writes what stands at its offset. -/
theorem access_cases (s : State) (a : BusAccess) :
    (∃ ans, s.access a = { s with answers := ans :: s.answers, draws := s.draws + 1 }) ∨
    ∃ l v, a = .write .w32 l.off v ∧ s.access a = { s.writeLoc l v with answers := .ok :: s.answers, draws := s.draws + 1 } := by
  cases a with
  | read width off => exact .inl (access_read s width off)
  | write width off v =>
    rcases Bool.eq_false_or_eq_true s.resetIn with hr | hr
    · exact .inl ⟨_, access_noAnswer s _ hr⟩
    · cases ht : target width off with
      | none => exact .inl ⟨_, access_write_none s width off v hr ht⟩
      | some l =>
        obtain ⟨rfl, hl⟩ := (target_eq_some_iff width off l).1 ht
        obtain rfl := locate_off off l hl
        exact .inr ⟨l, v, rfl, access_write_ok s l.off l v hr hl⟩

/-- No write of a location changes what the host does next. -/
theorem writeLoc_host_eq (s : State) (l : Loc) (v : Word) : (s.writeLoc l v).host = s.host := by
  obtain h | ⟨-, -, h⟩ | ⟨-, -, h⟩ | ⟨-, h⟩ | ⟨-, -, h⟩ | ⟨-, -, h⟩ | ⟨-, -, h⟩ | ⟨-, -, h⟩ | ⟨-, k, -, h⟩ | ⟨-, k, -, h⟩ :=
    writeLoc_cases s l v <;> rw [h] <;> rfl

/-- No access changes what the host does next. -/
theorem access_host_eq (s : State) (a : BusAccess) : (s.access a).host = s.host := by
  obtain ⟨ans, h⟩ | ⟨l, v, -, h⟩ := access_cases s a
  · rw [h]
  · rw [h]
    exact writeLoc_host_eq s l v

/-- No read changes what is frozen. -/
theorem access_read_frozen (s : State) (width : Width) (off : Nat) : (s.access (.read width off)).frozen = s.frozen := by
  obtain ⟨ans, h⟩ := access_read s width off
  rw [h]
  rfl

/-- None of the host ops resets the block. -/
def NoReset (ops : List HostOp) : Prop := ∀ op ∈ ops, op.resets = false

/-- R100: the reads that `RDOUT` goes on with reset nothing. -/
theorem noReset_readsAfter (ans : List Answer) : NoReset (readsAfter ans) := by
  unfold readsAfter
  split
  · intro op h
    obtain ⟨k, -, rfl⟩ := List.mem_map.1 h
    rfl
  · exact List.forall_mem_nil _

section
variable {s : State}

/-- A host op that resets nothing leaves only such ops to come. -/
theorem hostOp_noReset (hs : NoReset s.host) (op : HostOp) (hop : op.resets = false) : NoReset (s.hostOp op).host := by
  have hread (off : Nat) : NoReset (s.access (.read .w32 off)).host := (access_host_eq s _).symm ▸ hs
  cases op with
  | access a => exact (access_host_eq s a).symm ▸ hs
  | idle => exact hs
  | wait =>
    rw [State.hostOp]
    split
    · exact hread 0x00C
    · exact List.forall_mem_cons.2 ⟨rfl, hread 0x00C⟩
  | waitIrq =>
    rw [State.hostOp]
    split
    · exact hs
    · exact List.forall_mem_cons.2 ⟨rfl, hs⟩
  | rdOut => exact List.forall_mem_append.2 ⟨noReset_readsAfter _, hread 0x018⟩
  | resetAssert | resetRelease => cases hop

section
variable (hb : s.busy = true)
include hb

/-- R280: while a command runs, no write of a location but one with SRST changes what is frozen. -/
theorem writeLoc_frozen (l : Loc) (v : Word) (hw : l = .ctrl → v.getLsbD 1 = false) : (s.writeLoc l v).frozen = s.frozen := by
  have hidle : s.busy ≠ false := by rw [hb]; decide
  obtain h | ⟨hl, hv, -⟩ | ⟨-, -, h⟩ | ⟨-, h⟩ | ⟨-, -, h⟩ | ⟨hn, -⟩ | ⟨hn, -⟩ | ⟨hn, -⟩ | ⟨hn, -⟩ | ⟨hn, -⟩ := writeLoc_cases s l v
  · rw [h]
  · exact absurd hv (Bool.eq_false_iff.1 (hw hl))
  iterate 3 rw [h]; rfl
  all_goals exact absurd hn hidle

/-- R280: while a command runs, no access but a write of CTRL with SRST changes what is frozen. -/
theorem access_frozen (a : BusAccess) (ha : (HostOp.access a).resets = false) : (s.access a).frozen = s.frozen := by
  obtain ⟨ans, h⟩ | ⟨l, v, rfl, h⟩ := access_cases s a
  · rw [h]
    rfl
  · have hw : l = .ctrl → v.getLsbD 1 = false := by
      rintro rfl
      exact ha
    rw [h]
    exact writeLoc_frozen hb l v hw

/-- R280: while a command runs, no host op but one that resets the block changes what is frozen. -/
theorem hostOp_frozen (op : HostOp) (hop : op.resets = false) : (s.hostOp op).frozen = s.frozen := by
  cases op with
  | access a => exact access_frozen hb a hop
  | idle => rfl
  | wait =>
    rw [State.hostOp]
    split <;> exact access_read_frozen s .w32 0x00C
  | waitIrq =>
    rw [State.hostOp]
    split <;> rfl
  | rdOut => exact access_read_frozen s .w32 0x018
  | resetAssert | resetRelease => cases hop

/-- R280: while a command runs, a host step that resets nothing leaves what is frozen, and only such steps to come. -/
theorem hostStep_frozen (hs : NoReset s.host) : s.hostStep.frozen = s.frozen ∧ NoReset s.hostStep.host := by
  rw [State.hostStep]
  split
  case h_1 => exact ⟨rfl, hs⟩
  case h_2 op rest hh =>
    rw [hh] at hs
    obtain ⟨hop, hrest⟩ := List.forall_mem_cons.1 hs
    exact ⟨hostOp_frozen (s := { s with host := rest }) hb op hop, hostOp_noReset (s := { s with host := rest }) hrest op hop⟩

end

/-- R284: the host steps that the countdown counts all happen, and leave what is frozen but the countdown, which is then 0. -/
theorem run_to_due (n : Nat) (c : Word) (hr : s.resetIn = false) (hp : s.pend = some c) (hn : s.countdown = n) (hs : NoReset s.host) :
    ∃ t, Sys2Proof.core.run n s = .next t ∧ t.frozen = State.frozen { s with countdown := 0 } := by
  induction n generalizing s with
  | zero => exact ⟨s, rfl, by rw [← hn]⟩
  | succ n ih =>
    have hb : s.busy = true := by rw [State.busy, hp]; rfl
    obtain ⟨hfr, hs'⟩ := hostStep_frozen (s := { s with countdown := n }) hb hs
    have hstep := step_waiting s c n hr hp hn
    generalize State.hostStep { s with countdown := n } = u at hfr hs' hstep
    obtain ⟨t, hrun, ht⟩ := ih (s := u) ((congrArg State.resetIn hfr).trans hr) ((congrArg State.pend hfr).trans hp)
      (congrArg State.countdown hfr) hs'
    have hzero : State.frozen { u with countdown := 0 } = State.frozen { s with countdown := 0 } :=
      congrArg (fun w : State => { w with countdown := 0 }) hfr
    exact ⟨t, (run_succ s u n hstep).trans hrun, ht.trans hzero⟩

end

/-- Settles O11: the counted host steps leave the command pending on what it was issued with, and its completion step is next. -/
theorem everyPendingCommandCompletes : Obligations.EveryPendingCommandCompletes := by
  intro s c hr hp hs
  obtain ⟨t, hrun, hfr⟩ := run_to_due s.countdown c hr hp rfl hs
  have hdue : step t = t.engineStep c :=
    step_due t c ((congrArg State.resetIn hfr).trans hr) ((congrArg State.pend hfr).trans hp) (congrArg State.countdown hfr)
  obtain ⟨r, hcompleted⟩ := engineStep_completed t c
  obtain ⟨hpend, hdone, -, -⟩ := completed_status t r
  exact ⟨t, t.completed r, hrun, eq_of_frozen_eq hfr, hdue.trans hcompleted, by rw [State.busy, hpend]; rfl, hdone⟩

end Sys2Proof.Machine
end

section
/-! SUPPORT. The decoder: which fields it accepts, and that a command's fields are the only ones that decode to it (30_encoding.md R90 to R97). -/

namespace Sys2Proof

/-- R95: an OP that decodes is that of the command, which takes KEY and ARG over where its row has them and has 0 for them elsewhere. -/
theorem decodeOp_eq_some {f : Fields} {i : Instr} (h : decodeOp f = some i) :
    i.fields = { op := f.op
                 arg := if f.op ∈ ([0x28, 0x32, 0x41] : List Byte) then f.arg else 0
                 key := f.key && f.op == 0x03
                 rsv := 0 } := by
  obtain ⟨op, arg, key, rsv⟩ := f
  unfold decodeOp at h
  split at h
  case h_28 => cases h
  all_goals
    rename_i hop
    have hop := congrArg (BitVec.ofNat 8) hop
    rw [BitVec.ofNat_toNat, BitVec.setWidth_eq] at hop
    subst hop
    obtain rfl := Option.some.inj h
    simp [Instr.fields]

/-- R96: what the decoder asks of the fields besides an assigned OP. -/
theorem decodeFields_ok_iff (f : Fields) (i : Instr) : decodeFields f = .ok i ↔
    decodeOp f = some i ∧ f.rsv = 0 ∧ (f.key = true → f.op = 0x03) ∧ (f.arg ≠ 0 → f.op ∈ ([0x28, 0x32, 0x41] : List Byte)) := by
  unfold decodeFields
  cases decodeOp f with
  | none => simp
  | some j =>
    dsimp only
    split_ifs with hrsv hkey harg
    · exact ⟨nofun, fun ⟨_, h, _⟩ => absurd h hrsv⟩
    · exact ⟨nofun, fun ⟨_, _, h, _⟩ => absurd (h hkey.1) hkey.2⟩
    · exact ⟨nofun, fun ⟨_, _, _, h⟩ => absurd (h harg.1) harg.2⟩
    · exact ⟨fun h => ⟨congrArg some (Except.ok.inj h), not_not.1 hrsv, fun hk => not_not.1 fun hop => hkey ⟨hk, hop⟩,
        fun ha => not_not.1 fun hop => harg ⟨ha, hop⟩⟩, fun ⟨h, _⟩ => congrArg Except.ok (Option.some.inj h)⟩

/-- R95: the OPs that decode are the assigned ones. -/
theorem decodeOp_isSome_iff (f : Fields) : (∃ i, decodeOp f = some i) ↔ f.op ∈ assignedOps := by
  obtain ⟨op, arg, key, rsv⟩ := f
  have hall : ∀ op : Byte, (decodeOp ⟨op, 0, false, 0⟩).isSome = true ↔ op ∈ assignedOps := by decide +kernel
  rw [← Option.isSome_iff_exists, ← hall op]
  unfold decodeOp
  dsimp only
  split <;> simp [*]

/-- R92, R95: every command's fields decode to it. -/
theorem decodeFields_fields (i : Instr) : decodeFields i.fields = .ok i := by
  cases i with
  | hash160 key => cases key <;> rfl
  | b32Enc v | scrOp v | prepend v => simp [decodeFields, decodeOp, Instr.fields]
  | _ => rfl

/-- R96: fields that decode to a command are the command's own. -/
theorem fields_of_decodeFields {f : Fields} {i : Instr} (h : decodeFields f = .ok i) : f = i.fields := by
  obtain ⟨hop, hrsv, hkey, harg⟩ := (decodeFields_ok_iff f i).1 h
  rw [decodeOp_eq_some hop]
  obtain ⟨op, arg, key, rsv⟩ := f
  simp only [Fields.mk.injEq, true_and]
  refine ⟨?_, ?_, hrsv⟩
  · split
    · rfl
    · rename_i hnot
      exact not_not.1 (mt harg hnot)
  · cases key with
    | false => rfl
    | true => simpa using hkey rfl

/-- R90 to R95: the word of a command decodes to it. -/
theorem decode_encode (i : Instr) : decode (encode i) = .ok i := by
  rw [decode, encode, Fields.ofWord_toWord, decodeFields_fields]

end Sys2Proof

namespace Sys2Proof.Machine

open Sys2Proof

/-- Settles O2: words and fields are the same thing, and so are commands and the fields that decode. -/
theorem decodeAndEncodeAgree : Obligations.DecodeAndEncodeAgree := by
  refine ⟨decode_encode, fun w i h => ?_⟩
  rw [encode, ← fields_of_decodeFields h, Fields.toWord_ofWord]

/-- Settles O3: the OP is looked up first, and the other three checks follow. -/
theorem decodeAcceptsExactlyTheLegalWords : Obligations.DecodeAcceptsExactlyTheLegalWords := by
  intro w
  simp only [decode, decodeFields_ok_iff, exists_and_right, decodeOp_isSome_iff]
  rfl

/-- Settles O1: each of the nine words is its command's encoding; each of the four others fails one check. -/
theorem specCommandWordsDecode : Obligations.SpecCommandWordsDecode := by
  refine ⟨decode_encode .sha256, decode_encode (.hash160 true), decode_encode .shaBlock, decode_encode .b58chkEnc,
    decode_encode (.b32Enc 16), decode_encode .b32Dec, decode_encode (.scrOp 0xAC), decode_encode .scrMulti2,
    decode_encode (.prepend 0x6F), ?_⟩
  decide

end Sys2Proof.Machine
end

section
/-! SUPPORT. The Bech32 checksum as a linear map: what six words add to the polymod, and that they are read off it (42_bech32.md R174, R175). -/

namespace Sys2Proof.Machine

open Sys2Proof

/-- R174: `polymod` goes on from the state its first words leave. -/
theorem polymod_append (v w : List Byte) : polymod (v ++ w) = w.foldl polymodStep (polymod v) := List.foldl_append

/-- The turns of the checksum are linear in the state they start from. -/
theorem foldl_polymodStep_xor (a b : BitVec 30) (v : List Byte) :
    v.foldl polymodStep (a ^^^ b) = (List.replicate v.length 0).foldl polymodStep a ^^^ v.foldl polymodStep b := by
  induction v generalizing a b with
  | nil => rfl
  | cons x v ih =>
    simp only [List.foldl_cons, List.length_cons, List.replicate_succ]
    rw [BitVec.xor_comm, polymodStep_xor, BitVec.xor_comm, ih]

/-- A turn on a state of at most 25 bits is a shift that takes the word in. -/
theorem polymodStep_of_lt (a : BitVec 30) (x : Byte) (ha : a.toNat < 2 ^ 25) :
    polymodStep a x = a <<< (5 : Nat) ^^^ x.setWidth 30 := by
  have hfeed : bchFeedback 0#30 = 0#30 := by decide
  have hzero : polymodStep 0#30 x = x.setWidth 30 := by simp [polymodStep, hfeed]
  have h := polymodStep_xor 0#30 a x
  rwa [BitVec.zero_xor, hzero, polymodStep_small a ha, BitVec.xor_comm] at h

/-- A word's bits from bit 5 up are 0. -/
theorem getLsbD_of_word {x : Byte} (hx : x.toNat ≤ 31) {j : Nat} (hj : 5 ≤ j) : x.getLsbD j = false :=
  Nat.testBit_lt_two_pow (Nat.lt_of_lt_of_le (Nat.lt_succ_of_le hx) (Nat.pow_le_pow_right (n := 2) (by decide) hj))

/-- The value of some 5-bit words, the first in the uppermost bits. -/
def packWords (c : List Byte) : BitVec 30 := c.foldl (fun a x => a <<< (5 : Nat) ^^^ x.setWidth 30) 0

/-- The last word is put below those before it. -/
theorem packWords_append (c : List Byte) (x : Byte) : packWords (c ++ [x]) = packWords c <<< (5 : Nat) ^^^ x.setWidth 30 := by
  simp [packWords]

/-- Group `j / 5` of the bits, from the lowest up, is that word, counted from the last. -/
theorem getLsbD_packWords (c : List Byte) (hc : ∀ w ∈ c, w.toNat ≤ 31) (j : Nat) (hj : j < 30) :
    (packWords c).getLsbD j = (c.reverse.getD (j / 5) 0).getLsbD (j % 5) := by
  induction c using List.reverseRecOn generalizing j with
  | nil => simp [packWords]
  | append_singleton c x ih =>
    obtain ⟨hc, hx⟩ := List.forall_mem_append.1 hc
    simp only [packWords_append, BitVec.getLsbD_xor, BitVec.getLsbD_shiftLeft, BitVec.getLsbD_setWidth, hj, List.reverse_append,
      List.reverse_singleton, List.singleton_append]
    by_cases h5 : j < 5
    · simp [h5, Nat.div_eq_of_lt h5, Nat.mod_eq_of_lt h5]
    · have hdiv : j / 5 = (j - 5) / 5 + 1 := by omega
      have hmod : j % 5 = (j - 5) % 5 := by omega
      simp [h5, ih hc (j - 5) (by omega), getLsbD_of_word (hx x (by simp)) (by omega : 5 ≤ j), hdiv, hmod]

/-- At most six words fill only their own bits. -/
theorem packWords_lt (c : List Byte) (hc : ∀ w ∈ c, w.toNat ≤ 31) (hlen : c.length ≤ 6) :
    (packWords c).toNat < 2 ^ (5 * c.length) := by
  induction c using List.reverseRecOn with
  | nil => decide
  | append_singleton c x ih =>
    obtain ⟨hc, hx⟩ := List.forall_mem_append.1 hc
    rw [List.length_append, List.length_singleton] at hlen ⊢
    have hx : x.toNat < 2 ^ 5 := Nat.lt_succ_of_le (hx x (by simp))
    rw [packWords_append, BitVec.toNat_xor, BitVec.toNat_shiftLeft, BitVec.toNat_setWidth, Nat.shiftLeft_eq]
    have hpow : 2 ^ (5 * (c.length + 1)) = 2 ^ (5 * c.length) * 2 ^ 5 := by rw [← Nat.pow_add]; ring_nf
    have hle : 2 ^ 5 ≤ 2 ^ (5 * (c.length + 1)) := Nat.pow_le_pow_right (by decide) (by omega)
    have hhigh := Nat.mul_lt_mul_of_pos_right (ih hc (by omega)) (by decide : 0 < 2 ^ 5)
    exact Nat.xor_lt_two_pow (lt_of_le_of_lt (Nat.mod_le _ _) (by omega)) (lt_of_le_of_lt (Nat.mod_le _ _) (by omega))

/-- From state 0 the turns on at most six words only pack them. -/
theorem foldl_polymodStep_zero (c : List Byte) (hc : ∀ w ∈ c, w.toNat ≤ 31) (hlen : c.length ≤ 6) :
    c.foldl polymodStep 0#30 = packWords c := by
  induction c using List.reverseRecOn with
  | nil => rfl
  | append_singleton c x ih =>
    obtain ⟨hc, -⟩ := List.forall_mem_append.1 hc
    rw [List.length_append, List.length_singleton] at hlen
    rw [List.foldl_append, ih hc (by omega), packWords_append]
    have hlt := packWords_lt c hc (by omega)
    exact polymodStep_of_lt _ x (lt_of_lt_of_le hlt (Nat.pow_le_pow_right (by decide) (by omega)))

/-- R175: six words are the six groups of their value. -/
theorem sixGroups_packWords (ws : List Byte) (hw : ∀ w ∈ ws, w.toNat ≤ 31) (hlen : ws.length = 6) : sixGroups (packWords ws) = ws := by
  apply List.ext_getElem
  · simp [sixGroups, hlen]
  intro i _ hi
  apply BitVec.eq_of_getLsbD_eq
  intro k hk
  simp only [sixGroups, List.getElem_map, List.getElem_range, BitVec.getLsbD_setWidth, BitVec.getLsbD_extractLsb', hk, decide_true,
    Bool.true_and]
  by_cases h5 : k < 5
  · have hdiv : (5 * (5 - i) + k) / 5 = 5 - i := by omega
    have hmod : (5 * (5 - i) + k) % 5 = k := by omega
    have hrev : ws.reverse.getD (5 - i) 0 = ws[i] := by
      rw [List.getD_eq_getElem _ _ (by rw [List.length_reverse]; omega), List.getElem_reverse]
      congr 1
      omega
    rw [getLsbD_packWords ws hw _ (by omega), hdiv, hmod, hrev, decide_eq_true h5, Bool.true_and]
  · rw [decide_eq_false h5, Bool.false_and, getLsbD_of_word (hw ws[i] (List.getElem_mem _)) (by omega)]

/-- R175: the six groups of a value are words. -/
theorem sixGroups_le (v : BitVec 30) : ∀ w ∈ sixGroups v, w.toNat ≤ 31 := by
  intro w hw
  obtain ⟨i, -, rfl⟩ := List.mem_map.1 hw
  have h := (v.extractLsb' (5 * (5 - i)) 5).isLt
  rw [BitVec.toNat_setWidth]
  omega

/-- R175: there are six of them. -/
@[simp] theorem sixGroups_length (v : BitVec 30) : (sixGroups v).length = 6 := by simp [sixGroups]

/-- R175: a value is that of its six groups. -/
theorem packWords_sixGroups (v : BitVec 30) : packWords (sixGroups v) = v := by
  apply BitVec.eq_of_getLsbD_eq
  intro j hj
  rw [getLsbD_packWords _ (sixGroups_le v) j hj, List.getD_eq_getElem _ _ (by rw [List.length_reverse, sixGroups_length]; omega),
    List.getElem_reverse]
  have hdiv : 5 * (5 - (6 - 1 - j / 5)) + j % 5 = j := by omega
  have hmod : j % 5 < 5 := Nat.mod_lt _ (by decide)
  simp [sixGroups, hdiv, hmod]
  omega

/-- R175: what the polymod of a string becomes when six words follow it. -/
theorem polymod_append_six (v c : List Byte) (hc : ∀ w ∈ c, w.toNat ≤ 31) (hlen : c.length = 6) :
    polymod (v ++ c) = polymod (v ++ [0, 0, 0, 0, 0, 0]) ^^^ packWords c := by
  have h := foldl_polymodStep_xor (polymod v) 0#30 c
  rw [BitVec.xor_zero, hlen, foldl_polymodStep_zero c hc (by omega)] at h
  rw [polymod_append, polymod_append, h]
  rfl

/-- Settles O50: the polymod is 1 exactly when the six words' value is what `checksumPm` is, and words and value determine each other. -/
theorem checksumIsTheOnlyOneThatVerifies : Obligations.ChecksumIsTheOnlyOneThatVerifies := by
  intro h d c _ hc hlen
  have hpm : polymod (hrpExpand h ++ (d ++ c)) = 1 ↔ packWords c = checksumPm h d := by
    rw [← List.append_assoc, polymod_append_six _ c hc hlen, checksumPm]
    exact ⟨fun h => by rw [← h, ← BitVec.xor_assoc, BitVec.xor_self, BitVec.zero_xor],
      fun h => by rw [h, ← BitVec.xor_assoc, BitVec.xor_self, BitVec.zero_xor]⟩
  rw [hpm, createChecksum]
  constructor
  · intro heq
    rw [← heq, sixGroups_packWords c hc hlen]
  · rintro rfl
    exact packWords_sixGroups _

end Sys2Proof.Machine
end

section
/-! SUPPORT. Base58: strings of digits and the numbers they stand for, characters and their index, and the round trips (41_base58.md section 1). -/

namespace Sys2Proof.Machine

open Sys2Proof

/-! ### A string as its leading repetitions of one character and the rest -/

/-- A list is some copies of `c` and a list that does not begin with `c`. -/
theorem exists_eq_replicate_append {α : Type} [DecidableEq α] (c : α) (l : List α) :
    ∃ (z : Nat) (e : List α), l = List.replicate z c ++ e ∧ e.head? ≠ some c := by
  induction l with
  | nil => exact ⟨0, [], rfl, nofun⟩
  | cons x l ih =>
    by_cases hx : x = c
    · obtain ⟨z, e, rfl, he⟩ := ih
      exact ⟨z + 1, e, by rw [hx, List.replicate_succ, List.cons_append], he⟩
    · exact ⟨0, x :: l, rfl, fun h => hx (Option.some.inj h)⟩

/-- R151, R152: the leading bytes equal to `c` of such a list are its copies of `c`. -/
theorem countLeading_replicate_append (c : Byte) (z : Nat) {e : List Byte} (he : e.head? ≠ some c) :
    countLeading c (List.replicate z c ++ e) = z := by
  have hrest : e.takeWhile (· == c) = [] := by
    cases e with
    | nil => rfl
    | cons x e =>
      have hx : (x == c) = false := beq_eq_false_iff_ne.2 fun h => he (by rw [h, List.head?_cons])
      exact List.takeWhile_cons_of_neg (by rw [hx]; decide)
  rw [countLeading, List.takeWhile_append_of_pos (by simp), hrest, List.append_nil, List.length_replicate]

/-! ### Digits, the most significant first -/

/-- R151, R152: the number that digits in a base stand for. -/
def digitsValue (radix : Nat) (ds : List Nat) : Nat := ds.foldl (fun n y => radix * n + y) 0

/-- It is the library's, whose digits begin with the least significant. -/
theorem digitsValue_eq_ofDigits (radix : Nat) (ds : List Nat) : digitsValue radix ds = Nat.ofDigits radix ds.reverse := by
  rw [Nat.ofDigits_eq_foldr, List.foldr_reverse, digitsValue]
  simp only [Nat.cast_id, Nat.add_comm]

section
variable {radix : Nat} (hr : 1 < radix)
include hr

/-- The digits of a number are below the base. -/
theorem toBase_lt (n : Nat) : ∀ d ∈ toBase radix n n, d < radix := by
  intro d hd
  rw [toBase_eq_digits radix hr n n le_rfl, List.mem_reverse] at hd
  exact Nat.digits_lt_base hr hd

/-- They do not begin with 0. -/
theorem toBase_head?_ne (n : Nat) : (toBase radix n n).head? ≠ some 0 := by
  rw [toBase_eq_digits radix hr n n le_rfl, List.head?_reverse]
  intro h
  have hn : n ≠ 0 := by
    rintro rfl
    simp at h
  have hne : Nat.digits radix n ≠ [] := Nat.digits_ne_nil_iff_ne_zero.2 hn
  rw [List.getLast?_eq_some_getLast hne] at h
  exact Nat.getLast_digit_ne_zero radix hn (Option.some.inj h)

/-- Digits that do not begin with 0 are those of their number. -/
theorem toBase_digitsValue {ds : List Nat} (hd : ∀ d ∈ ds, d < radix) (h0 : ds.head? ≠ some 0) :
    toBase radix (digitsValue radix ds) (digitsValue radix ds) = ds := by
  rw [toBase_eq_digits radix hr _ _ le_rfl, digitsValue_eq_ofDigits, Nat.digits_ofDigits radix hr, List.reverse_reverse]
  · simpa using hd
  · intro hne hlast
    rw [List.getLast_reverse] at hlast
    exact h0 (by rw [List.head?_eq_some_head (List.reverse_ne_nil_iff.1 hne), hlast])

/-- `k` digits are enough for the numbers below the base's `k`-th power. -/
theorem toBase_length_le {n k : Nat} (h : n < radix ^ k) : (toBase radix n n).length ≤ k := by
  rw [toBase_eq_digits radix hr n n le_rfl, List.length_reverse]
  exact (Nat.digits_length_le_iff hr n).2 h

/-- `k` digits stand for a number below the base's `k`-th power. -/
theorem digitsValue_lt {ds : List Nat} (hd : ∀ d ∈ ds, d < radix) : digitsValue radix ds < radix ^ ds.length := by
  rw [digitsValue_eq_ofDigits, ← List.length_reverse]
  exact Nat.ofDigits_lt_base_pow_length hr (by simpa using hd)

end

/-- R11: `int_be` of a byte string is the number its bytes stand for. -/
theorem intBe_eq (b : List Byte) : intBe b = digitsValue 256 (b.map BitVec.toNat) := (List.foldl_map ..).symm

/-- The bytes of the digits of a number in base 256 are these digits. -/
theorem map_toNat_shortestBe (n : Nat) : (shortestBe n).map BitVec.toNat = toBase 256 n n := by
  rw [shortestBe, List.map_map]
  refine (List.map_congr_left fun d hd => ?_).trans (List.map_id _)
  exact Nat.mod_eq_of_lt (toBase_lt (by decide) n d hd)

/-- Bytes are determined by their numbers. -/
theorem map_toNat_injective {b c : List Byte} (h : b.map BitVec.toNat = c.map BitVec.toNat) : b = c :=
  List.map_injective_iff.2 (fun _ _ => BitVec.eq_of_toNat_eq) h

/-- R152: the number of a shortest byte string is the one it is made of. -/
theorem intBe_shortestBe (n : Nat) : intBe (shortestBe n) = n := by
  rw [intBe_eq, map_toNat_shortestBe]
  exact value_toBase 256 (by decide) n n le_rfl

/-- R152: a shortest byte string does not begin with a zero byte. -/
theorem shortestBe_head?_ne (n : Nat) : (shortestBe n).head? ≠ some 0x00 := by
  intro h
  apply toBase_head?_ne (radix := 256) (by decide) n
  rw [← map_toNat_shortestBe, List.head?_map, h]
  rfl

/-- R152: a byte string that does not begin with a zero byte is its number's. -/
theorem shortestBe_intBe {e : List Byte} (he : e.head? ≠ some 0x00) : shortestBe (intBe e) = e := by
  apply map_toNat_injective
  rw [map_toNat_shortestBe, intBe_eq]
  apply toBase_digitsValue (by decide)
  · simpa using fun b _ => b.isLt
  · intro h
    obtain ⟨x, hx, h0⟩ := Option.map_eq_some_iff.1 (List.head?_map ▸ h)
    exact he (by rw [hx, BitVec.eq_of_toNat_eq (y := (0x00 : Byte)) h0])

/-! ### Characters and their index -/

section
variable {chars : List Byte}

/-- R12: a character's index leads to it. -/
theorem idx_spec {c : Byte} {i : Nat} (h : idx chars c = some i) : i < chars.length ∧ chars.getD i 0 = c := by
  obtain ⟨hi, hc, -⟩ := List.findIdx?_eq_some_iff_getElem.1 h
  exact ⟨hi, by rw [List.getD_eq_getElem _ _ hi]; exact beq_iff_eq.1 hc⟩

/-- R12: what is no character has no index. -/
theorem idx_eq_none_iff (c : Byte) : idx chars c = none ↔ c ∉ chars := by
  rw [idx, List.findIdx?_eq_none_iff]
  exact ⟨fun h hc => by simpa using h c hc, fun h x hx => beq_eq_false_iff_ne.2 fun hxc => h (hxc ▸ hx)⟩

/-- R12: what is a character has an index. -/
theorem exists_idx {c : Byte} (hc : c ∈ chars) : ∃ i, idx chars c = some i :=
  Option.ne_none_iff_exists'.1 fun h => (idx_eq_none_iff c).1 h hc

/-- A string has a character outside the alphabet exactly when the decoders' check finds one. -/
theorem any_idx_isNone_iff (s : List Byte) : s.any (fun c => (idx chars c).isNone) = true ↔ ∃ c ∈ s, c ∉ chars := by
  simp only [List.any_eq_true, Option.isNone_iff_eq_none, idx_eq_none_iff]

/-- The digits of a string's characters. -/
def charDigits (chars s : List Byte) : List Nat := s.map fun c => (idx chars c).getD 0

/-- The characters of digits. -/
def digitChars (chars : List Byte) (ds : List Nat) : List Byte := ds.map fun d => chars.getD d 0

/-- The digits of characters are indexes of the alphabet. -/
theorem charDigits_lt (s : List Byte) (hs : ∀ c ∈ s, c ∈ chars) : ∀ d ∈ charDigits chars s, d < chars.length := by
  intro d hd
  obtain ⟨c, hc, rfl⟩ := List.mem_map.1 hd
  obtain ⟨i, hi⟩ := exists_idx (hs c hc)
  rw [hi]
  exact (idx_spec hi).1

/-- The characters of indexes are in the alphabet. -/
theorem digitChars_mem {ds : List Nat} (hd : ∀ d ∈ ds, d < chars.length) : ∀ c ∈ digitChars chars ds, c ∈ chars := by
  intro c hc
  obtain ⟨d, hds, rfl⟩ := List.mem_map.1 hc
  rw [List.getD_eq_getElem _ _ (hd d hds)]
  exact List.getElem_mem _

/-- Characters to digits and back. -/
theorem digitChars_charDigits {s : List Byte} (hs : ∀ c ∈ s, c ∈ chars) : digitChars chars (charDigits chars s) = s := by
  rw [digitChars, charDigits, List.map_map]
  refine (List.map_congr_left fun c hc => ?_).trans (List.map_id s)
  obtain ⟨i, hi⟩ := exists_idx (hs c hc)
  exact (congrArg (chars.getD · 0) (congrArg (Option.getD · 0) hi)).trans (idx_spec hi).2

/-- Digits to characters and back, where the alphabet's characters differ. -/
theorem charDigits_digitChars (hn : chars.Nodup) {ds : List Nat} (hd : ∀ d ∈ ds, d < chars.length) :
    charDigits chars (digitChars chars ds) = ds := by
  rw [digitChars, charDigits, List.map_map]
  refine (List.map_congr_left fun d hds => ?_).trans (List.map_id ds)
  have hlt := hd d hds
  have hmem : chars.getD d 0 ∈ chars := by
    rw [List.getD_eq_getElem _ _ hlt]
    exact List.getElem_mem _
  obtain ⟨i, hi⟩ := exists_idx hmem
  obtain ⟨hil, hic⟩ := idx_spec hi
  rw [List.getD_eq_getElem _ _ hil, List.getD_eq_getElem _ _ hlt, hn.getElem_inj_iff] at hic
  exact (congrArg (Option.getD · 0) hi).trans hic

end

/-! ### The codec -/

/-- R150: the 58 characters differ. -/
theorem alpha58_nodup : alpha58.Nodup := by decide

/-- R152: the number of a string of characters is that of their digits. -/
theorem b58Value_eq (s : List Byte) : b58Value s = digitsValue 58 (charDigits alpha58 s) := (List.foldl_map ..).symm

/-- R151: the encoding, by the leading zero bytes and the rest. -/
theorem b58Encode_eq (z : Nat) {e : List Byte} (he : e.head? ≠ some 0x00) :
    b58Encode (List.replicate z 0x00 ++ e) = List.replicate z 0x31 ++ digitChars alpha58 (toBase 58 (intBe e) (intBe e)) := by
  rw [b58Encode, countLeading_replicate_append 0x00 z he]
  simp only [List.drop_left' (List.length_replicate (n := z) (a := (0x00 : Byte))), digitChars]

/-- R152: the decoding, by the leading `1`s and the rest. -/
theorem b58Decode_eq (z : Nat) {e : List Byte} (he : e.head? ≠ some 0x31) (hc : ∀ c ∈ e, c ∈ alpha58) :
    b58Decode (List.replicate z 0x31 ++ e) = .ok (List.replicate z 0x00 ++ shortestBe (digitsValue 58 (charDigits alpha58 e))) := by
  have hall : ¬ (List.replicate z 0x31 ++ e).any (fun c => (idx alpha58 c).isNone) = true := by
    rw [any_idx_isNone_iff]
    rintro ⟨c, hmem, hnot⟩
    rcases List.mem_append.1 hmem with h | h
    · exact hnot (List.eq_of_mem_replicate h ▸ by decide)
    · exact hnot (hc c h)
  rw [b58Decode, if_neg hall, countLeading_replicate_append 0x31 z he]
  simp only [List.drop_left' (List.length_replicate (n := z) (a := (0x31 : Byte))), b58Value_eq]

/-- R152: a character outside the alphabet is the only thing the decoder refuses. -/
theorem b58Decode_error {s : List Byte} (h : ∃ c ∈ s, c ∉ alpha58) : b58Decode s = .error .invalidCharacter := by
  rw [b58Decode, if_pos ((any_idx_isNone_iff s).2 h)]

/-- R150: digits whose characters begin with `1` begin with 0. -/
theorem digitChars_head?_ne {ds : List Nat} (hd : ∀ d ∈ ds, d < 58) (h0 : ds.head? ≠ some 0) :
    (digitChars alpha58 ds).head? ≠ some 0x31 := by
  intro h
  have hfirst : ∀ d < 58, alpha58.getD d 0 = 0x31 → d = 0 := by decide
  obtain ⟨d, hhead, hc⟩ := Option.map_eq_some_iff.1 (List.head?_map ▸ h)
  exact h0 (hhead.trans (congrArg some (hfirst d (hd d (List.mem_of_mem_head? hhead)) hc)))

/-- R150: characters whose digits begin with 0 begin with `1`. -/
theorem charDigits_head?_ne {s : List Byte} (hs : ∀ c ∈ s, c ∈ alpha58) (h1 : s.head? ≠ some 0x31) :
    (charDigits alpha58 s).head? ≠ some 0 := by
  intro h
  obtain ⟨c, hhead, hd⟩ := Option.map_eq_some_iff.1 (List.head?_map ▸ h)
  obtain ⟨i, hi⟩ := exists_idx (hs c (List.mem_of_mem_head? hhead))
  rw [hi] at hd
  obtain rfl : i = 0 := hd
  exact h1 (hhead.trans (congrArg some (idx_spec hi).2.symm))

/-- R151, R152: decoding inverts encoding. -/
theorem b58Decode_b58Encode (b : List Byte) : b58Decode (b58Encode b) = .ok b := by
  obtain ⟨z, e, rfl, he⟩ := exists_eq_replicate_append 0x00 b
  have hlt : ∀ d ∈ toBase 58 (intBe e) (intBe e), d < 58 := toBase_lt (by decide) _
  rw [b58Encode_eq z he, b58Decode_eq z (digitChars_head?_ne hlt (toBase_head?_ne (by decide) _)) (digitChars_mem hlt),
    charDigits_digitChars alpha58_nodup hlt]
  have hvalue : digitsValue 58 (toBase 58 (intBe e) (intBe e)) = intBe e := value_toBase 58 (by decide) _ _ le_rfl
  rw [hvalue, shortestBe_intBe he]

/-- R151, R152: encoding inverts decoding on every string of the alphabet, which decodes to no more bytes than it has characters. -/
theorem exists_b58Decode {t : List Byte} (ht : ∀ c ∈ t, c ∈ alpha58) :
    ∃ b, b58Decode t = .ok b ∧ b58Encode b = t ∧ b.length ≤ t.length := by
  obtain ⟨z, e, rfl, he⟩ := exists_eq_replicate_append 0x31 t
  obtain ⟨-, hc⟩ := List.forall_mem_append.1 ht
  have hlt : ∀ d ∈ charDigits alpha58 e, d < 58 := charDigits_lt e hc
  refine ⟨_, b58Decode_eq z he hc, ?_, ?_⟩
  · rw [b58Encode_eq z (shortestBe_head?_ne _), intBe_shortestBe, toBase_digitsValue (by decide) hlt (charDigits_head?_ne hc he),
      digitChars_charDigits hc]
  · have hbytes : digitsValue 58 (charDigits alpha58 e) < 256 ^ e.length := by
      refine lt_of_lt_of_le (digitsValue_lt (by decide) hlt) ?_
      rw [charDigits, List.length_map]
      exact Nat.pow_le_pow_left (by decide) _
    have hlen := toBase_length_le (by decide) hbytes
    simpa [shortestBe] using hlen

/-- R152: what decodes is the encoding of what it decodes to, and no shorter. -/
theorem b58Decode_ok {t b : List Byte} (h : b58Decode t = .ok b) : b58Encode b = t ∧ b.length ≤ t.length := by
  have ht : ∀ c ∈ t, c ∈ alpha58 := by
    by_contra hnot
    push Not at hnot
    rw [b58Decode_error hnot] at h
    cases h
  obtain ⟨r, hr, hrt⟩ := exists_b58Decode ht
  obtain rfl : r = b := Except.ok.inj (hr.symm.trans h)
  exact hrt

/-- R152: the only error of the decoder. -/
theorem b58Decode_error_eq {t : List Byte} {e : ErrCode} (h : b58Decode t = .error e) : e = .invalidCharacter := by
  rw [b58Decode] at h
  split_ifs at h
  exact (Except.error.inj h).symm

/-- R159: no byte string of at most `n` bytes has an encoding of more than `k` characters, where `58 ^ k` is `256 ^ n` or more. -/
theorem b58Encode_length_le {n k : Nat} (hnk : n ≤ k) (hpow : 256 ^ n ≤ 58 ^ k) {b : List Byte} (hb : b.length ≤ n) :
    (b58Encode b).length ≤ k := by
  obtain ⟨z, e, rfl, he⟩ := exists_eq_replicate_append 0x00 b
  rw [List.length_append, List.length_replicate] at hb
  have hz : 256 ^ (n - z) ≤ 58 ^ (k - z) := by
    have hsplit : 256 ^ (n - z) * 256 ^ z ≤ 58 ^ (k - z) * 58 ^ z := by
      rw [← Nat.pow_add, ← Nat.pow_add, Nat.sub_add_cancel (by omega), Nat.sub_add_cancel (by omega)]
      exact hpow
    have hlow : 58 ^ (k - z) * 58 ^ z ≤ 58 ^ (k - z) * 256 ^ z := Nat.mul_le_mul_left _ (Nat.pow_le_pow_left (by decide) z)
    exact Nat.le_of_mul_le_mul_right (hsplit.trans hlow) (by positivity)
  have hvalue : intBe e < 256 ^ e.length := by
    rw [intBe_eq, ← List.length_map (as := e) BitVec.toNat]
    exact digitsValue_lt (by decide) (by simpa using fun b _ => b.isLt)
  have hlen := toBase_length_le (by decide) (hvalue.trans_le ((Nat.pow_le_pow_right (by decide) (by omega : e.length ≤ n - z)).trans hz))
  rw [b58Encode_eq z he, List.length_append, List.length_replicate, digitChars, List.length_map]
  omega

/-- Settles O42: both directions, and the one thing that is refused. -/
theorem base58RoundTrips : Obligations.Base58RoundTrips := by
  refine ⟨b58Decode_b58Encode, fun t ht => ?_, fun t ht => b58Decode_error ht⟩
  obtain ⟨b, hd, he, -⟩ := exists_b58Decode ht
  exact ⟨b, hd, he⟩

end Sys2Proof.Machine
end

section
/-! SUPPORT. The commands that read IN, with IN_LEN in range: their operand is `State.input` (30_encoding.md R93); the hash and Base58Check commands
among them (40_hash.md sections 4 and 5; 41_base58.md section 2). -/

namespace Sys2Proof.Machine

open Sys2Proof

/-! ### What `Exec` answers of the operand is what the command does -/

section
variable {i : Instr} {s : State} {k : List Byte → Except ErrCode (List Update)} (he : exec i s = s.complete (s.withIn k)) (hin : s.InOk)
include he hin

/-- The completion step of a command that reads IN. -/
theorem exec_of_withIn : exec i s = s.complete (k s.input) := by rw [he, withIn_ok s hin]

/-- Bytes for OUT, which OUT holds. -/
theorem completesWithOutput_of_withIn {t : List Byte} (hk : k s.input = .ok (outBytes t)) (hl : t.length ≤ 512) :
    CompletesWithOutput i s t :=
  completesWithOutput_of i s t hl (by rw [exec_of_withIn he hin, hk])

/-- An error. -/
theorem failsWith_of_withIn {e : ErrCode} (hk : k s.input = .error e) : FailsWith i s e :=
  failsWith_of i s e (by rw [exec_of_withIn he hin, hk])

end

/-- Byte `k` of the operand, as a command sees it. -/
theorem input_getD (s : State) (k : Nat) (hk : k < s.inLen.toNat) : s.input.getD k 0 = s.byteAt .inb k := by
  rw [List.getD_eq_getElem _ _ (by rwa [input_length])]
  simp [State.input, State.bufBytes]

/-! ### Hashes -/

/-- R114: a SHA-256 digest has 32 bytes. -/
@[simp] theorem sha256_length (m : List Byte) : (sha256 m).length = 32 := rfl

/-- R122: so has a double one. -/
@[simp] theorem sha256d_length (m : List Byte) : (sha256d m).length = 32 := rfl

/-- R121: a RIPEMD-160 digest has 20 bytes. -/
@[simp] theorem ripemd160_length (m : List Byte) : (ripemd160 m).length = 20 := rfl

/-- R122: so has the hash of a key. -/
@[simp] theorem hash160_length (m : List Byte) : (hash160 m).length = 20 := rfl

/-- R122: a checksum has 4 bytes. -/
@[simp] theorem checksum4_length (m : List Byte) : (checksum4 m).length = 4 := rfl

/-- Settles O37: the digest is what `Exec` answers, and OUT holds it. -/
theorem oneShotHashesWriteTheDigest : Obligations.OneShotHashesWriteTheDigest := fun s hin =>
  ⟨⟨completesWithOutput_of_withIn (s := s) (i := .sha256) rfl hin rfl (by simp), sha256_length _⟩,
    ⟨completesWithOutput_of_withIn (s := s) (i := .rmd160) rfl hin rfl (by simp), ripemd160_length _⟩,
    ⟨completesWithOutput_of_withIn (s := s) (i := .sha256d) rfl hin rfl (by simp), sha256_length _⟩,
    ⟨completesWithOutput_of_withIn (s := s) (i := .checksum4) rfl hin rfl (by simp), checksum4_length _⟩⟩

/-- R127, R217: the two first bytes of a compressed key. -/
theorem keyPrefixOk_iff (b : Byte) : keyPrefixOk b = true ↔ b = 0x02 ∨ b = 0x03 := by simp [keyPrefixOk]

/-- Settles O38: the two checks of the key come before the hash, the length first. -/
theorem hash160ChecksTheKeyThenHashes : Obligations.Hash160ChecksTheKeyThenHashes := by
  intro s hin
  have hfirst : s.inLen.toNat = 33 → s.input.getD 0 0 = s.byteAt .inb 0 := fun hlen => input_getD s 0 (by omega)
  refine ⟨?plain, fun hlen hkey => ?key, fun hlen => ?length, fun hlen h2 h3 => ?first⟩
  case plain =>
    refine completesWithOutput_of_withIn (i := .hash160 false) rfl hin ?_ (by simp)
    rw [if_neg (by simp), if_neg (by simp)]
    rfl
  case key =>
    refine completesWithOutput_of_withIn (i := .hash160 true) rfl hin ?_ (by simp)
    rw [if_neg (by simp [hlen]), if_neg (by rw [hfirst hlen, keyPrefixOk_iff]; exact fun h => h.2 hkey)]
    rfl
  case length =>
    refine failsWith_of_withIn (i := .hash160 true) rfl hin ?_
    rw [if_pos (by simp [hlen])]
  case first =>
    refine failsWith_of_withIn (i := .hash160 true) rfl hin ?_
    rw [if_neg (by simp [hlen]), if_pos (by rw [hfirst hlen, keyPrefixOk_iff]; exact ⟨rfl, not_or.2 ⟨h2, h3⟩⟩)]

/-- Settles O39: neither command has an operand. -/
theorem initCommandsLoadTheInitialValues : Obligations.InitCommandsLoadTheInitialValues := fun _ => ⟨rfl, rfl⟩

/-- The completion step of a command that leaves a value in `SHA_H`. -/
theorem completed_shaH (s : State) (h : ShaChain) : s.completed (.ok [.shaH h]) = { s.okWith s.mem with shaH := h } := rfl

/-- The completion step of a command that leaves a value in `RMD_H`. -/
theorem completed_rmdH (s : State) (h : RmdChain) : s.completed (.ok [.rmdH h]) = { s.okWith s.mem with rmdH := h } := rfl

/-- R131: what `SHA_BLOCK` asks of its operand. -/
theorem exec_shaBlock (s : State) : exec .shaBlock s =
    s.complete (s.withIn fun m => if m.length ≠ 64 then .error .lengthRange else .ok [.shaH (shaCompress s.shaH m)]) := rfl

/-- R133: what `RMD_BLOCK` asks of its operand. -/
theorem exec_rmdBlock (s : State) : exec .rmdBlock s =
    s.complete (s.withIn fun m => if m.length ≠ 64 then .error .lengthRange else .ok [.rmdH (rmdCompress s.rmdH m)]) := rfl

/-- R131, R133: an operand of 64 bytes is taken in. -/
theorem withIn_block {s : State} (hlen : s.inLen.toNat = 64) (u : List Byte → List Update) :
    (s.withIn fun m => if m.length ≠ 64 then .error .lengthRange else .ok (u m)) = .ok (u s.input) := by
  rw [withIn_ok s (by rw [State.InOk, hlen]; decide), if_neg (by rw [input_length, hlen]; decide)]

/-- R131, R133: an operand of another length is refused, whether IN holds it or not. -/
theorem withIn_block_error {s : State} (hlen : s.inLen.toNat ≠ 64) (u : List Byte → List Update) :
    (s.withIn fun m => if m.length ≠ 64 then .error .lengthRange else .ok (u m)) = .error .lengthRange := by
  by_cases hin : s.InOk
  · rw [withIn_ok s hin, if_pos (by rwa [input_length])]
  · exact withIn_error s hin _

/-- Settles O40: the one length the commands take is one that IN holds. -/
theorem blockCommandsCompressOneBlock : Obligations.BlockCommandsCompressOneBlock := by
  intro s
  refine ⟨fun hlen => ⟨?_, ?_⟩, fun hlen => ⟨?_, ?_⟩⟩
  · rw [exec_shaBlock, withIn_block hlen, State.complete, completed_shaH]
  · rw [exec_rmdBlock, withIn_block hlen, State.complete, completed_rmdH]
  · exact failsWith_of _ s _ (by rw [exec_shaBlock, withIn_block_error hlen])
  · exact failsWith_of _ s _ (by rw [exec_rmdBlock, withIn_block_error hlen])

/-! ### Base58Check -/

/-- R159: where `58 ^ k` is `256 ^ n` or more, so are their squares. -/
theorem pow_double_le {n k : Nat} (h : 256 ^ n ≤ 58 ^ k) : 256 ^ (n * 2) ≤ 58 ^ (k * 2) := by
  rw [Nat.pow_mul, Nat.pow_mul]
  exact Nat.pow_le_pow_left h 2

/-- R159: the characters of at most 256 bytes. -/
theorem b58Encode_length_le_350 {m : List Byte} (hm : m.length ≤ 256) : (b58Encode m).length ≤ 350 :=
  b58Encode_length_le (by decide) (pow_double_le (n := 128) (k := 175) (by norm_num)) hm

/-- R159: the characters of at most 256 bytes and their checksum. -/
theorem b58checkEncode_length_le_356 {m : List Byte} (hm : m.length ≤ 256) : (b58checkEncode m).length ≤ 356 :=
  b58Encode_length_le (by decide) (pow_double_le (n := 130) (k := 178) (by norm_num))
    (by rw [List.length_append, checksum4_length]; omega)

/-- Settles O43: the string is what `Exec` answers, and its length is R159's. -/
theorem base58EncodersWriteTheString : Obligations.Base58EncodersWriteTheString := by
  intro s hin
  have henc := b58Encode_length_le_350 (m := s.input) (by rwa [input_length])
  have hchk := b58checkEncode_length_le_356 (m := s.input) (by rwa [input_length])
  exact ⟨⟨completesWithOutput_of_withIn (i := .b58Enc) rfl hin rfl (by omega), henc⟩,
    completesWithOutput_of_withIn (i := .b58chkEnc) rfl hin rfl (hchk.trans (by decide)), hchk⟩

/-- Settles O44: the decoder's check is the only way it fails. -/
theorem base58DecoderDecodesTheAlphabet : Obligations.Base58DecoderDecodesTheAlphabet := by
  intro s hin
  refine ⟨fun hs => ?decodes, fun hs => ?refuses⟩
  case decodes =>
    obtain ⟨b, hd, henc, hlen⟩ := exists_b58Decode hs
    rw [input_length] at hlen
    exact ⟨b, henc, hlen, completesWithOutput_of_withIn (i := .b58Dec) rfl hin (by rw [hd]) (by omega)⟩
  case refuses => exact failsWith_of_withIn (i := .b58Dec) rfl hin (by rw [b58Decode_error hs])

/-- R154: decoding inverts encoding. -/
theorem b58checkDecode_b58checkEncode (p : List Byte) : b58checkDecode (b58checkEncode p) = .ok p := by
  have hlen : (p ++ checksum4 p).length - 4 = p.length := by rw [List.length_append, checksum4_length]; omega
  rw [b58checkDecode, b58checkEncode, b58Decode_b58Encode]
  dsimp only
  rw [hlen, List.take_left' rfl, List.drop_left' rfl, if_neg (by rw [List.length_append, checksum4_length]; omega), if_neg (not_not.2 rfl)]

/-- R154: what decodes is the encoding of what it decodes to, and no shorter. -/
theorem b58checkDecode_ok {t p : List Byte} (h : b58checkDecode t = .ok p) : t = b58checkEncode p ∧ p.length ≤ t.length := by
  rw [b58checkDecode] at h
  split at h
  · cases h
  · rename_i r hd
    obtain ⟨henc, hlen⟩ := b58Decode_ok hd
    split_ifs at h with hshort hsum
    obtain rfl := Except.ok.inj h
    exact ⟨by rw [b58checkEncode, not_not.1 hsum, List.take_append_drop, henc], (List.length_take_le _ _).trans (by omega)⟩

/-- R154: the two errors of the decoder. -/
theorem b58checkDecode_error_eq {t : List Byte} {e : ErrCode} (h : b58checkDecode t = .error e) :
    b58Decode t = .error .invalidCharacter ∧ e = .invalidCharacter ∨ e = .checksumMismatch := by
  rw [b58checkDecode] at h
  cases hd : b58Decode t with
  | error f =>
    rw [hd] at h
    obtain rfl := b58Decode_error_eq hd
    exact .inl ⟨rfl, (Except.error.inj h).symm⟩
  | ok r =>
    rw [hd] at h
    dsimp only at h
    split_ifs at h <;> exact .inr (Except.error.inj h).symm

/-- R154: of a string of the alphabet only the checksum can be wrong. -/
theorem b58checkDecode_error {t : List Byte} {e : ErrCode} (ht : ∀ c ∈ t, c ∈ alpha58) (h : b58checkDecode t = .error e) :
    e = .checksumMismatch := by
  obtain ⟨r, hd, -⟩ := exists_b58Decode ht
  obtain ⟨hbad, -⟩ | he := b58checkDecode_error_eq h
  · cases hd.symm.trans hbad
  · exact he

/-- Settles O45: encodings decode to their payload; another string has a foreign character or a checksum that does not match. -/
theorem base58CheckDecoderInvertsTheEncoder : Obligations.Base58CheckDecoderInvertsTheEncoder := by
  intro s hin
  refine ⟨fun p hp => ?inverts, fun hs => ?character, fun hs hnone => ?mismatch⟩
  case inverts =>
    have hd : b58checkDecode s.input = .ok p := by rw [hp, b58checkDecode_b58checkEncode]
    obtain ⟨-, hlen⟩ := b58checkDecode_ok hd
    rw [input_length] at hlen
    exact completesWithOutput_of_withIn (i := .b58chkDec) rfl hin (by rw [hd]) (by omega)
  case character => exact failsWith_of_withIn (i := .b58chkDec) rfl hin (by rw [b58checkDecode, b58Decode_error hs])
  case mismatch =>
    cases hd : b58checkDecode s.input with
    | ok p =>
      obtain ⟨hp, -⟩ := b58checkDecode_ok hd
      exact absurd hp (hnone p)
    | error e =>
      obtain rfl := b58checkDecode_error hs hd
      exact failsWith_of_withIn (i := .b58chkDec) rfl hin (by rw [hd])

end Sys2Proof.Machine
end

section
/-! SUPPORT. Regrouping between bytes and 5-bit words as cutting one number into groups of bits, and that the two directions invert each other
(42_bech32.md R171, R172). -/

namespace Sys2Proof.Machine

open Sys2Proof

/-- The `l * m` low bits of a number as `m` groups of `l` bits, the uppermost first. -/
def bitGroups (l m x : Nat) : List Byte := (List.range m).map fun j => BitVec.ofNat 8 ((x >>> (l * (m - 1 - j))) % 2 ^ l)

/-- There are `m` groups. -/
@[simp] theorem bitGroups_length (l m x : Nat) : (bitGroups l m x).length = m := by simp [bitGroups]

/-- The last group is the `l` low bits; the groups before it are those of the bits above. -/
theorem bitGroups_succ (l m x : Nat) : bitGroups l (m + 1) x = bitGroups l m (x >>> l) ++ [BitVec.ofNat 8 (x % 2 ^ l)] := by
  rw [bitGroups, List.range_succ, List.map_append, List.map_singleton, bitGroups]
  congr 1
  · refine List.map_congr_left fun j hj => ?_
    have hj : j < m := List.mem_range.1 hj
    have hshift : l * (m + 1 - 1 - j) = l + l * (m - 1 - j) := by
      rw [show m + 1 - 1 - j = 1 + (m - 1 - j) by omega, Nat.mul_add, Nat.mul_one]
    rw [hshift, Nat.shiftRight_add]
  · simp

/-- No more bits than `k` are below `2 ^ k`. -/
theorem bitValue_lt (l : Nat) (b : List Byte) (hb : ∀ v ∈ b, v.toNat < 2 ^ l) : bitValue l b < 2 ^ (l * b.length) := by
  induction b using List.reverseRecOn with
  | nil => exact Nat.two_pow_pos _
  | append_singleton b v ih =>
    obtain ⟨hb, hv⟩ := List.forall_mem_append.1 hb
    have ih := ih hb
    have hv := hv v (by simp)
    rw [bitValue_append, List.length_append, List.length_singleton, Nat.mul_add, Nat.mul_one, Nat.pow_add]
    calc bitValue l b * 2 ^ l + v.toNat < (bitValue l b + 1) * 2 ^ l := by rw [Nat.add_mul]; omega
      _ ≤ 2 ^ (l * b.length) * 2 ^ l := Nat.mul_le_mul_right _ ih

section
variable {l : Nat} (hl : l ≤ 8)
include hl

/-- A group fits in a byte. -/
theorem toNat_bitGroup (x : Nat) : (BitVec.ofNat 8 (x % 2 ^ l)).toNat = x % 2 ^ l := by
  have hlt : x % 2 ^ l < 2 ^ l := Nat.mod_lt _ (by positivity)
  exact Nat.mod_eq_of_lt (hlt.trans_le (Nat.pow_le_pow_right (by decide) hl))

/-- A group is a number of `l` bits. -/
theorem bitGroups_lt (m x : Nat) : ∀ v ∈ bitGroups l m x, v.toNat < 2 ^ l := by
  intro v hv
  obtain ⟨j, -, rfl⟩ := List.mem_map.1 hv
  rw [toNat_bitGroup hl]
  exact Nat.mod_lt _ (by positivity)

/-- The groups' value is the low bits they were cut from. -/
theorem bitValue_bitGroups (m x : Nat) : bitValue l (bitGroups l m x) = x % 2 ^ (l * m) := by
  induction m generalizing x with
  | zero => simp [bitGroups, bitValue, Nat.mod_one]
  | succ m ih =>
    rw [bitGroups_succ, bitValue_append, ih, toNat_bitGroup hl, Nat.mul_succ, Nat.add_comm (l * m), Nat.pow_add, Nat.mod_mul,
      Nat.shiftRight_eq_div_pow]
    ring

end

/-- A string of `l`-bit digits is its value cut into groups. -/
theorem bitGroups_bitValue (l : Nat) (b : List Byte) (hb : ∀ v ∈ b, v.toNat < 2 ^ l) : bitGroups l b.length (bitValue l b) = b := by
  induction b using List.reverseRecOn with
  | nil => rfl
  | append_singleton b v ih =>
    obtain ⟨hb, hv⟩ := List.forall_mem_append.1 hb
    have hv : v.toNat < 2 ^ l := hv v (by simp)
    have hhigh : (bitValue l b * 2 ^ l + v.toNat) >>> l = bitValue l b := by
      rw [Nat.shiftRight_eq_div_pow, Nat.mul_comm, Nat.mul_add_div (by positivity), Nat.div_eq_of_lt hv, Nat.add_zero]
    have hlow : (bitValue l b * 2 ^ l + v.toNat) % 2 ^ l = v.toNat := by
      rw [Nat.mul_comm, Nat.mul_add_mod, Nat.mod_eq_of_lt hv]
    rw [List.length_append, List.length_singleton, bitGroups_succ, bitValue_append, hhigh, hlow, ih hb, BitVec.ofNat_toNat,
      BitVec.setWidth_eq]

/-- R171, R172: regrouping cuts the string's value, less the bits left over, into groups. -/
theorem regroup_eq_bitGroups (k l : Nat) (hl : 0 < l) (b : List Byte) (hb : ∀ v ∈ b, v.toNat < 2 ^ k) :
    regroup k l b =
      { acc := bitValue k b
        nbits := k * b.length % l
        out := bitGroups l (k * b.length / l) (bitValue k b >>> (k * b.length % l)) } := by
  rw [regroup_eq k l hl b hb, bitGroups]
  congr 1
  refine List.map_congr_left fun j hj => ?_
  have hj : j < k * b.length / l := List.mem_range.1 hj
  have hdiv : l * (k * b.length / l) + k * b.length % l = k * b.length := Nat.div_add_mod _ _
  have hsplit : l * (k * b.length / l) = l * (k * b.length / l - 1 - j) + l * (j + 1) := by
    rw [← Nat.mul_add]
    congr 1
    omega
  rw [← Nat.shiftRight_add]
  congr 3
  omega

/-- R171: the words are the bytes' value with zero bits after it, cut into groups of five. -/
theorem toWords_eq (b : List Byte) :
    toWords b = bitGroups 5 ((8 * b.length + 4) / 5) (bitValue 8 b * 2 ^ (5 * ((8 * b.length + 4) / 5) - 8 * b.length)) := by
  rw [toWords, regroup_eq_bitGroups 8 5 (by decide) b fun v _ => v.isLt]
  dsimp only
  generalize bitValue 8 b = x
  generalize 8 * b.length = n
  split
  · rename_i hpos
    have hcount : (n + 4) / 5 = n / 5 + 1 := by omega
    have hpad : 5 * (n / 5 + 1) - n = 5 - n % 5 := by omega
    have hpow : 2 ^ 5 = 2 ^ (n % 5) * 2 ^ (5 - n % 5) := by rw [← Nat.pow_add]; congr 1; omega
    have hhigh : (x * 2 ^ (5 - n % 5)) >>> 5 = x >>> (n % 5) := by
      rw [Nat.shiftRight_eq_div_pow, hpow, Nat.mul_div_mul_right _ _ (by positivity), Nat.shiftRight_eq_div_pow]
    rw [hcount, hpad, bitGroups_succ, hhigh, Nat.shiftLeft_eq]
    rfl
  · rename_i hzero
    have hcount : (n + 4) / 5 = n / 5 := by omega
    have hpad : 5 * (n / 5) - n = 0 := by omega
    have hrest : n % 5 = 0 := by omega
    rw [hcount, hpad, hrest, Nat.pow_zero, Nat.mul_one, Nat.shiftRight_zero]

/-- R171: they are words of five bits. -/
theorem toWords_le (b : List Byte) : ∀ w ∈ toWords b, w.toNat ≤ 31 := by
  intro w hw
  rw [toWords_eq] at hw
  exact Nat.le_of_lt_succ (bitGroups_lt (by decide) _ _ w hw)

/-- R172: regrouping words gives bytes unless five or more bits are left over or one of those left over is 1. -/
theorem fromWords_eq {w : List Byte} (hw : ∀ x ∈ w, x.toNat ≤ 31) : fromWords w =
    if 5 * w.length % 8 ≥ 5 then .error .invalidPadding
    else if bitValue 5 w % 2 ^ (5 * w.length % 8) ≠ 0 then .error .invalidPadding
    else .ok (bitGroups 8 (5 * w.length / 8) (bitValue 5 w >>> (5 * w.length % 8))) := by
  rw [fromWords, regroup_eq_bitGroups 5 8 (by decide) w fun x hx => Nat.lt_succ_of_le (hw x hx)]

/-- R171, R172: strict regrouping gives back the bytes. -/
theorem fromWords_toWords (b : List Byte) : fromWords (toWords b) = .ok b := by
  rw [fromWords_eq (toWords_le b), toWords_length]
  have hvalue : bitValue 5 (toWords b) = bitValue 8 b * 2 ^ (5 * ((8 * b.length + 4) / 5) - 8 * b.length) := by
    have hlt := bitValue_lt 8 b fun v _ => v.isLt
    rw [toWords_eq, bitValue_bitGroups (by decide)]
    apply Nat.mod_eq_of_lt
    calc bitValue 8 b * 2 ^ (5 * ((8 * b.length + 4) / 5) - 8 * b.length)
        < 2 ^ (8 * b.length) * 2 ^ (5 * ((8 * b.length + 4) / 5) - 8 * b.length) := Nat.mul_lt_mul_of_pos_right hlt (by positivity)
      _ = 2 ^ (5 * ((8 * b.length + 4) / 5)) := by rw [← Nat.pow_add]; congr 1; omega
  have hpad : 5 * ((8 * b.length + 4) / 5) % 8 = 5 * ((8 * b.length + 4) / 5) - 8 * b.length := by omega
  have hcount : 5 * ((8 * b.length + 4) / 5) / 8 = b.length := by omega
  rw [hvalue, hpad, hcount, if_neg (by omega), if_neg (by rw [Nat.mul_mod_left]; decide), Nat.shiftRight_eq_div_pow,
    Nat.mul_div_cancel _ (by positivity), bitGroups_bitValue 8 b fun v _ => v.isLt]

/-- R171, R172: what regroups strictly is the regrouping of the bytes it gives. -/
theorem toWords_of_fromWords {w b : List Byte} (hw : ∀ x ∈ w, x.toNat ≤ 31) (h : fromWords w = .ok b) : w = toWords b := by
  rw [fromWords_eq hw] at h
  split_ifs at h with hbits hzero
  obtain rfl := Except.ok.inj h
  have hlt := bitValue_lt 5 w fun x hx => Nat.lt_succ_of_le (hw x hx)
  have hcount : (8 * (5 * w.length / 8) + 4) / 5 = w.length := by omega
  have hpad : 5 * w.length - 8 * (5 * w.length / 8) = 5 * w.length % 8 := by omega
  have hhigh : bitValue 5 w >>> (5 * w.length % 8) < 2 ^ (8 * (5 * w.length / 8)) := by
    rw [Nat.shiftRight_eq_div_pow, Nat.div_lt_iff_lt_mul (by positivity), ← Nat.pow_add, Nat.div_add_mod]
    exact hlt
  rw [toWords_eq, bitGroups_length, bitValue_bitGroups (by decide), Nat.mod_eq_of_lt hhigh, hcount, hpad, Nat.shiftRight_eq_div_pow,
    Nat.div_mul_cancel (Nat.dvd_of_mod_eq_zero (not_not.1 hzero)), bitGroups_bitValue 5 w fun x hx => Nat.lt_succ_of_le (hw x hx)]

/-- R172: leftover bits are the only thing strict regrouping refuses. -/
theorem fromWords_error {w : List Byte} {e : ErrCode} (h : fromWords w = .error e) : e = .invalidPadding := by
  rw [fromWords] at h
  split_ifs at h <;> exact (Except.error.inj h).symm

/-- R181, R183, R184: the check that some byte is no word. -/
theorem notWords_iff (w : List Byte) : notWords w = true ↔ ∃ x ∈ w, x.toNat > 31 := by simp [notWords]

/-- R181, R183, R184: all bytes are words. -/
theorem notWords_eq_false {w : List Byte} (hw : ∀ x ∈ w, x.toNat ≤ 31) : ¬ notWords w = true := by
  rw [notWords_iff]
  rintro ⟨x, hx, hgt⟩
  exact absurd (hw x hx) (Nat.not_le.2 hgt)

/-- R181, R183, R184: what passes the check are words. -/
theorem le_of_not_notWords {w : List Byte} (h : ¬ notWords w = true) : ∀ x ∈ w, x.toNat ≤ 31 := by
  intro x hx
  by_contra hgt
  exact h ((notWords_iff w).2 ⟨x, hx, Nat.not_le.1 hgt⟩)

/-- Settles O46: the regrouping is shorter than twice the input, so OUT holds it. -/
theorem toWordsRegroupsTheInput : Obligations.ToWordsRegroupsTheInput := by
  intro s hin
  have hlen : (toWords s.input).length = (8 * s.inLen.toNat + 4) / 5 := by rw [toWords_length, input_length]
  exact ⟨completesWithOutput_of_withIn (i := .b32Towords) rfl hin rfl (by omega), hlen, toWords_le _⟩

/-- Settles O47: words are checked first, and then strict regrouping decides. -/
theorem fromWordsInvertsToWords : Obligations.FromWordsInvertsToWords := by
  intro s hin
  refine ⟨fun b hb => ?inverts, fun hs => ?input, fun hs hnone => ?padding⟩
  case inverts =>
    have hlen : (8 * b.length + 4) / 5 = s.inLen.toNat := by rw [← toWords_length, ← hb, input_length]
    refine completesWithOutput_of_withIn (i := .b32Fromwords) rfl hin ?_ (by omega)
    rw [hb, if_neg (notWords_eq_false (toWords_le b)), fromWords_toWords]
  case input => exact failsWith_of_withIn (i := .b32Fromwords) rfl hin (if_pos ((notWords_iff _).2 hs))
  case padding =>
    refine failsWith_of_withIn (i := .b32Fromwords) rfl hin ?_
    rw [if_neg (notWords_eq_false hs)]
    cases hf : fromWords s.input with
    | ok b => exact absurd (toWords_of_fromWords hs hf) (hnone b)
    | error e => rw [fromWords_error hf]

end Sys2Proof.Machine
end

section
/-! SUPPORT. The Bech32 commands that read HRP or give a checksum (42_bech32.md R173 to R178, R182 to R185). -/

namespace Sys2Proof.Machine

open Sys2Proof

/-- R176: the HRPs that are accepted. -/
theorem hrpOk_iff (h : List Byte) : hrpOk h = true ↔
    1 ≤ h.length ∧ h.length ≤ 83 ∧ ∀ c ∈ h, 33 ≤ c.toNat ∧ c.toNat ≤ 126 ∧ ¬ (0x41 ≤ c.toNat ∧ c.toNat ≤ 0x5A) := by
  simp only [hrpOk, Bool.and_eq_true, decide_eq_true_eq, List.all_eq_true, Bool.not_eq_true', Bool.and_eq_false_iff,
    decide_eq_false_iff_not, not_and_or, and_assoc, ← forall_and]
  exact Iff.rfl

/-- R176: the HRP operand is accepted exactly when its bytes are an accepted HRP. -/
theorem hrpInOk_iff (s : State) : s.HrpInOk ↔ hrpOk s.hrpInput = true := by
  refine ⟨fun ⟨_, _, h⟩ => h, fun h => ?_⟩
  obtain ⟨hlo, hhi, -⟩ := (hrpOk_iff _).1 h
  rw [hrpInput_length] at hlo hhi
  exact ⟨hlo, hhi, h⟩

/-- R173: an HRP expands to two words for each byte and one between. -/
@[simp] theorem hrpExpand_length (h : List Byte) : (hrpExpand h).length = 2 * h.length + 1 := by
  simp [hrpExpand]
  omega

/-- Settles O48: IN has no part in it, so its only check is that of HRP. -/
theorem hrpExpansionOfAValidHrp : Obligations.HrpExpansionOfAValidHrp := by
  intro s
  have hok := hrpInOk_iff s
  rw [hrpOk_iff, hrpInput_length] at hok
  refine ⟨fun hlo hhi hc => ?valid, fun hbad => ?invalid⟩
  case valid =>
    have hlen : (hrpExpand s.hrpInput).length ≤ 512 := by
      rw [hrpExpand_length, hrpInput_length]
      omega
    exact completesWithOutput_of .b32Hrpexp s _ hlen (congrArg s.complete (withHrp_ok s (hok.2 ⟨hlo, hhi, hc⟩) _))
  case invalid =>
    have hnot : ¬ s.HrpInOk := by
      rw [hok]
      rintro ⟨hlo, hhi, hc⟩
      obtain h | h | ⟨c, hmem, h⟩ := hbad
      · omega
      · omega
      · have := hc c hmem
        omega
    exact failsWith_of .b32Hrpexp s _ (congrArg s.complete (withHrp_error s hnot _))

/-- The completion step of a command that leaves a value in RESULT. -/
theorem completed_result (s : State) (v : Word) : s.completed (.ok [.result v]) = { s.okWith s.mem with result := v } := rfl

/-- Settles O49: words are the one thing checked. -/
theorem polymodGoesToResult : Obligations.PolymodGoesToResult := by
  intro s hin
  refine ⟨fun hs => ?words, fun hs => ?input⟩
  case words => rw [exec_of_withIn (i := .b32Polymod) rfl hin, if_neg (notWords_eq_false hs), State.complete, completed_result]
  case input => exact failsWith_of_withIn (i := .b32Polymod) rfl hin (if_pos ((notWords_iff _).2 hs))

/-! ### Commands that read IN and then HRP -/

section
variable {i : Instr} {s : State} {k : List Byte → List Byte → Except ErrCode (List Update)}
  (he : exec i s = s.complete (s.withIn fun m => s.withHrp (k m))) (hin : s.InOk)
include he hin

/-- The completion step, with HRP accepted. -/
theorem exec_of_withIn_withHrp (hh : s.HrpInOk) : exec i s = s.complete (k s.input s.hrpInput) := by
  rw [exec_of_withIn he hin, withHrp_ok s hh]

/-- R246: an HRP that is not accepted, before any other check. -/
theorem failsWith_invalidHRP (hh : ¬ s.HrpInOk) : FailsWith i s .invalidHRP :=
  failsWith_of i s _ (by rw [exec_of_withIn he hin, withHrp_error s hh])

/-- An error, with HRP accepted. -/
theorem failsWith_of_withIn_withHrp (hh : s.HrpInOk) {e : ErrCode} (hk : k s.input s.hrpInput = .error e) : FailsWith i s e :=
  failsWith_of i s _ (by rw [exec_of_withIn_withHrp he hin hh, hk])

end

/-- R175: there are six checksum words. -/
@[simp] theorem createChecksum_length (h d : List Byte) : (createChecksum h d).length = 6 := sixGroups_length _

/-- R175: they are words. -/
theorem createChecksum_le (h d : List Byte) : ∀ w ∈ createChecksum h d, w.toNat ≤ 31 := sixGroups_le _

/-- The completion step of a command that produces bytes and leaves a value in RESULT. -/
theorem completed_outBytes_result (s : State) (t : List Byte) (v : Word) :
    s.completed (.ok (outBytes t ++ [.result v])) =
      { s.okWith (s.mem.setBufs .out 0 (t.map some)) with outLen := BitVec.ofNat 16 t.length, result := v } := rfl

/-- Settles O51: the operands come first, then the check of the words. -/
theorem checksumCommandWritesItsWords : Obligations.ChecksumCommandWritesItsWords := by
  intro s
  refine ⟨fun hin hh hs => ?words, failsWith_invalidHRP (i := .b32Checksum) rfl, fun hin hh hs => ?input⟩
  case words =>
    refine ⟨_, ?_, wrote_setBufs s.mem .out 0 (createChecksum s.hrpInput s.input) (by simp [Buf.cap, Config.outCap]), createChecksum_length _ _⟩
    rw [exec_of_withIn_withHrp (i := .b32Checksum) rfl hin hh, if_neg (notWords_eq_false hs), State.complete, completed_outBytes_result,
      createChecksum_length]
    rfl
  case input => exact failsWith_of_withIn_withHrp (i := .b32Checksum) rfl hin hh (if_pos ((notWords_iff _).2 hs))

/-- R177: the versions and lengths of a witness program. -/
theorem programLengthOk_iff (v : Byte) (n : Nat) :
    programLengthOk v.toNat n = true ↔ 2 ≤ n ∧ n ≤ 40 ∧ (v = 0 → n = 20 ∨ n = 32) := by
  have hzero : v.toNat = 0 ↔ v = 0 := ⟨fun h => BitVec.eq_of_toNat_eq h, fun h => h ▸ rfl⟩
  simp only [programLengthOk, Bool.and_eq_true, Bool.or_eq_true, decide_eq_true_eq, ne_eq, hzero]
  tauto

/-- R178: the characters of an address. -/
theorem b32Encode_length (h : List Byte) (v : Byte) (p : List Byte) :
    (b32Encode h v p).length = h.length + 1 + 1 + (8 * p.length + 4) / 5 + 6 := by
  simp [b32Encode, wordChars, toWords_length]
  omega

/-- Settles O52: the operands come first, then version and length, whose checks are `valid`. -/
theorem bech32EncoderWritesTheAddress : Obligations.Bech32EncoderWritesTheAddress := by
  intro s v valid
  have hvalid : valid ↔ v.toNat ≤ 16 ∧ programLengthOk v.toNat s.input.length = true := by
    rw [programLengthOk_iff, input_length]
  refine ⟨fun hin hh hv => ?encodes, failsWith_invalidHRP (i := .b32Enc v) rfl, fun hin hh hv => ?input⟩
  case encodes =>
    obtain ⟨hver, hlen⟩ := hvalid.1 hv
    have ⟨_, hhi, _⟩ := hh
    have ⟨_, _, hin40, _⟩ := hv
    have haddress := b32Encode_length s.hrpInput v s.input
    rw [input_length, hrpInput_length] at haddress
    refine ⟨completesWithOutput_of (.b32Enc v) s _ ?_ ?_, haddress⟩
    · rw [haddress]
      simp only [Config.hrpCap, Config.outCap] at hhi ⊢
      omega
    · rw [exec_of_withIn_withHrp (i := .b32Enc v) rfl hin hh, if_neg (Nat.not_lt.2 hver), if_neg (by rw [hlen]; decide)]
  case input =>
    refine failsWith_of_withIn_withHrp (i := .b32Enc v) rfl hin hh ?_
    split_ifs with hver hlen
    · rfl
    · rfl
    · exact absurd (hvalid.2 ⟨Nat.not_lt.1 hver, by simpa using hlen⟩) hv

end Sys2Proof.Machine
end

section
/-! SUPPORT. Bech32 addresses: the last separator, the data characters as words, and the decoder's checks in their order (42_bech32.md R170, R178,
R179, R186). -/

namespace Sys2Proof.Machine

open Sys2Proof

/-! ### The separator -/

/-- R179: without a `1` there is no separator. -/
theorem lastSeparator_eq_none {t : List Byte} (ht : 0x31 ∉ t) : lastSeparator t = none := by
  rw [lastSeparator, List.getLast?_eq_none_iff, List.filter_eq_nil_iff]
  intro i hi h
  have hi : i < t.length := List.mem_range.1 hi
  rw [List.getD_eq_getElem _ _ hi] at h
  exact ht (beq_iff_eq.1 h ▸ List.getElem_mem hi)

/-- R179: the separator is the last `1`. -/
theorem lastSeparator_append (h : List Byte) {d : List Byte} (hd : 0x31 ∉ d) : lastSeparator (h ++ [0x31] ++ d) = some h.length := by
  have hnone : ((List.range d.length).map fun j => (h ++ [0x31]).length + j).filter
      (fun i => (h ++ [0x31] ++ d).getD i 0 == 0x31) = [] := by
    rw [List.filter_eq_nil_iff]
    intro i hi hsep
    obtain ⟨j, hj, rfl⟩ := List.mem_map.1 hi
    have hj : j < d.length := List.mem_range.1 hj
    rw [List.getD_append_right _ _ _ _ (Nat.le_add_right _ _), Nat.add_sub_cancel_left, List.getD_eq_getElem _ _ hj] at hsep
    exact hd (beq_iff_eq.1 hsep ▸ List.getElem_mem hj)
  have hlast : (h ++ [0x31] ++ d).getD h.length 0 == 0x31 := by simp
  rw [lastSeparator, List.length_append, List.range_add, List.filter_append, hnone, List.append_nil, List.length_append,
    List.length_singleton, List.range_succ, List.filter_append, List.filter_singleton, hlast]
  simp

/-- A string with a `1` is split at its last one. -/
theorem exists_split_of_mem {t : List Byte} (ht : 0x31 ∈ t) : ∃ h d, t = h ++ [0x31] ++ d ∧ 0x31 ∉ d := by
  induction t with
  | nil => cases ht
  | cons x t ih =>
    by_cases hx : 0x31 ∈ t
    · obtain ⟨h, d, rfl, hd⟩ := ih hx
      exact ⟨x :: h, d, rfl, hd⟩
    · obtain rfl : 0x31 = x := (List.mem_cons.1 ht).resolve_right hx
      exact ⟨[], t, rfl, hx⟩

/-! ### The data characters -/

/-- R170: the 32 characters differ. -/
theorem charset32_nodup : charset32.Nodup := by decide

/-- R170: `1` is none of them. -/
theorem one_not_mem_charset32 : 0x31 ∉ charset32 := by decide

/-- R179: the words of data characters. -/
def charWords (d : List Byte) : List Byte := d.map fun c => BitVec.ofNat 8 ((idx charset32 c).getD 0)

/-- R178: the characters of words are those of the numbers they are. -/
theorem wordChars_eq (w : List Byte) : wordChars w = digitChars charset32 (w.map BitVec.toNat) := by
  rw [wordChars, digitChars, List.map_map]
  rfl

/-- R179: the words of characters are their indexes. -/
theorem charWords_eq (d : List Byte) : charWords d = (charDigits charset32 d).map (BitVec.ofNat 8) := by
  rw [charWords, charDigits, List.map_map]
  rfl

/-- A word is an index of the 32 characters. -/
theorem map_toNat_lt {w : List Byte} (hw : ∀ x ∈ w, x.toNat ≤ 31) : ∀ d ∈ w.map BitVec.toNat, d < charset32.length := by
  intro d hd
  obtain ⟨x, hx, rfl⟩ := List.mem_map.1 hd
  exact Nat.lt_succ_of_le (hw x hx)

/-- R178: the characters of words are of the charset. -/
theorem wordChars_mem {w : List Byte} (hw : ∀ x ∈ w, x.toNat ≤ 31) : ∀ c ∈ wordChars w, c ∈ charset32 := by
  rw [wordChars_eq]
  exact digitChars_mem (map_toNat_lt hw)

/-- R178, R179: from words to characters and back. -/
theorem charWords_wordChars {w : List Byte} (hw : ∀ x ∈ w, x.toNat ≤ 31) : charWords (wordChars w) = w := by
  rw [charWords_eq, wordChars_eq, charDigits_digitChars charset32_nodup (map_toNat_lt hw), List.map_map]
  exact (List.map_congr_left fun x _ => (BitVec.ofNat_toNat 8 x).trans x.setWidth_eq).trans (List.map_id w)

/-- The indexes of characters are numbers of bytes. -/
theorem map_toNat_charWords {d : List Byte} (hd : ∀ c ∈ d, c ∈ charset32) : (charWords d).map BitVec.toNat = charDigits charset32 d := by
  rw [charWords_eq, List.map_map]
  refine (List.map_congr_left fun i hi => ?_).trans (List.map_id _)
  have hlt : i < 32 := charDigits_lt d hd i hi
  exact Nat.mod_eq_of_lt (by omega)

/-- R179: characters of the charset have words. -/
theorem charWords_le {d : List Byte} (hd : ∀ c ∈ d, c ∈ charset32) : ∀ x ∈ charWords d, x.toNat ≤ 31 := by
  intro x hx
  have hmem : x.toNat ∈ charDigits charset32 d := map_toNat_charWords hd ▸ List.mem_map_of_mem hx
  exact Nat.le_of_lt_succ (charDigits_lt d hd _ hmem)

/-- R178, R179: from characters to words and back. -/
theorem wordChars_charWords {d : List Byte} (hd : ∀ c ∈ d, c ∈ charset32) : wordChars (charWords d) = d := by
  rw [wordChars_eq, map_toNat_charWords hd, digitChars_charDigits hd]

/-! ### The decoder's checks -/

/-- R179: no separator. -/
theorem b32Decode_of_no_separator {t : List Byte} (ht : 0x31 ∉ t) : b32Decode t = .error .invalidHRP := by
  rw [b32Decode, lastSeparator_eq_none ht]

section
variable {h d : List Byte} (hd : 0x31 ∉ d)
include hd

/-- R179: an HRP that is not accepted. -/
theorem b32Decode_of_hrp (hh : hrpOk h = false) : b32Decode (h ++ [0x31] ++ d) = .error .invalidHRP := by
  rw [b32Decode, lastSeparator_append h hd]
  dsimp only
  rw [List.append_assoc, List.take_left' rfl, if_pos hh, ite_self]

/-- R179: what follows the check of the HRP. -/
theorem b32Decode_of_hrpOk (hh : hrpOk h = true) : b32Decode (h ++ [0x31] ++ d) =
    if d.any (fun c => (idx charset32 c).isNone) then .error .invalidCharset else b32DecodeData h (charWords d) := by
  obtain ⟨hlo, hhi, -⟩ := (hrpOk_iff h).1 hh
  have hp : ¬ (h.length = 0 ∨ h.length > Config.hrpCap) := by
    rw [Config.hrpCap]
    omega
  rw [b32Decode, lastSeparator_append h hd]
  dsimp only
  rw [List.drop_left' (by simp), List.append_assoc, List.take_left' rfl, if_neg hp, if_neg (by rw [hh]; decide)]
  rfl

/-- R179: a character outside the charset. -/
theorem b32Decode_of_charset (hh : hrpOk h = true) (hc : ∃ c ∈ d, c ∉ charset32) :
    b32Decode (h ++ [0x31] ++ d) = .error .invalidCharset := by
  rw [b32Decode_of_hrpOk hd hh, if_pos ((any_idx_isNone_iff d).2 hc)]

/-- R179: data characters of the charset. -/
theorem b32Decode_of_data (hh : hrpOk h = true) (hc : ∀ c ∈ d, c ∈ charset32) :
    b32Decode (h ++ [0x31] ++ d) = b32DecodeData h (charWords d) := by
  rw [b32Decode_of_hrpOk hd hh, if_neg]
  rw [any_idx_isNone_iff]
  rintro ⟨c, hmem, hnot⟩
  exact hnot (hc c hmem)

end

/-- R175: six words verify when the polymod of all is 1. -/
theorem verifyChecksum_iff (h w : List Byte) : verifyChecksum h w = true ↔ polymod (hrpExpand h ++ w) = 1 := beq_iff_eq

section
variable {h w : List Byte}

/-- R179: fewer than six words, or six that do not verify. -/
theorem b32DecodeData_of_checksum (hw : w.length < 6 ∨ polymod (hrpExpand h ++ w) ≠ 1) : b32DecodeData h w = .error .invalidChecksum := by
  rw [b32DecodeData]
  split_ifs with hlen hsum
  · rfl
  · rfl
  · exact absurd hw (not_or.2 ⟨hlen, not_not.2 ((verifyChecksum_iff h w).1 (eq_true_of_ne_false hsum))⟩)

/-- R179: what is done with the words before the checksum, once it verifies. -/
theorem b32DecodeData_of_verified (hlen : 6 ≤ w.length) (hpm : polymod (hrpExpand h ++ w) = 1) {v : Byte} {r : List Byte}
    (hr : w.take (w.length - 6) = v :: r) : b32DecodeData h w =
      if v.toNat > 16 then .error .invalidWitnessVersion
      else (fromWords r).bind fun p => if programLengthOk v.toNat p.length then .ok (h, v, p) else .error .invalidWitnessLength := by
  rw [b32DecodeData, if_neg (Nat.not_lt.2 hlen), if_neg (by rw [(verifyChecksum_iff h w).2 hpm]; decide), hr]
  dsimp only
  cases fromWords r <;> rfl

/-- R179: no word before the checksum. -/
theorem b32DecodeData_of_no_version (hlen : w.length = 6) (hpm : polymod (hrpExpand h ++ w) = 1) :
    b32DecodeData h w = .error .invalidWitnessLength := by
  rw [b32DecodeData, if_neg (by omega), if_neg (by rw [(verifyChecksum_iff h w).2 hpm]; decide), hlen, List.take_zero]

/-- R179: data that is accepted is version, program and their checksum. -/
theorem b32DecodeData_ok (hw : ∀ x ∈ w, x.toNat ≤ 31) {h' p : List Byte} {v : Byte} (hok : b32DecodeData h w = .ok (h', v, p)) :
    h' = h ∧ v.toNat ≤ 16 ∧ programLengthOk v.toNat p.length = true ∧ w = (v :: toWords p) ++ createChecksum h (v :: toWords p) := by
  by_cases hsum : w.length < 6 ∨ polymod (hrpExpand h ++ w) ≠ 1
  · rw [b32DecodeData_of_checksum hsum] at hok
    cases hok
  obtain ⟨hlen, hpm⟩ := not_or.1 hsum
  have hlen : 6 ≤ w.length := Nat.not_lt.1 hlen
  have hpm := not_not.1 hpm
  have hsplit : w.take (w.length - 6) ++ w.drop (w.length - 6) = w := List.take_append_drop _ _
  cases hr : w.take (w.length - 6) with
  | nil =>
    have hlen6 : w.length = 6 := by
      have := congrArg List.length hr
      rw [List.length_take, List.length_nil] at this
      omega
    rw [b32DecodeData_of_no_version hlen6 hpm] at hok
    cases hok
  | cons ver r =>
    rw [b32DecodeData_of_verified hlen hpm hr] at hok
    split_ifs at hok with hver
    cases hf : fromWords r with
    | error e =>
      rw [hf] at hok
      cases hok
    | ok prog =>
      rw [hf] at hok
      simp only [Except.bind] at hok
      split_ifs at hok with hprog
      cases hok
      rw [hr] at hsplit
      have hdata : ∀ x ∈ v :: r, x.toNat ≤ 31 := fun x hx => hw x (hsplit ▸ List.mem_append_left _ hx)
      have htail : ∀ x ∈ w.drop (w.length - 6), x.toNat ≤ 31 := fun x hx => hw x (List.mem_of_mem_drop hx)
      have htail6 : (w.drop (w.length - 6)).length = 6 := by
        rw [List.length_drop]
        omega
      obtain rfl := toWords_of_fromWords (List.forall_mem_cons.1 hdata).2 hf
      rw [← hsplit, checksumIsTheOnlyOneThatVerifies h _ _ hdata htail htail6] at hpm
      exact ⟨rfl, Nat.not_lt.1 hver, hprog, by rw [← hsplit, hpm]⟩

/-- R179: the codes that data can be refused with. -/
theorem b32DecodeData_error {e : ErrCode} (he : b32DecodeData h w = .error e) :
    e ∈ [ErrCode.invalidChecksum, .invalidWitnessLength, .invalidWitnessVersion, .invalidPadding] := by
  rw [b32DecodeData] at he
  split_ifs at he with hlen hsum
  · exact Except.error.inj he ▸ by decide
  · exact Except.error.inj he ▸ by decide
  · split at he
    · exact Except.error.inj he ▸ by decide
    · split_ifs at he with hver
      · exact Except.error.inj he ▸ by decide
      · split at he
        · rename_i hf
          rw [← Except.error.inj he, fromWords_error hf]
          decide
        · split_ifs at he with hprog
          exact Except.error.inj he ▸ by decide

end

/-! ### Encoding and decoding -/

/-- R177, R178: the words of an address are words. -/
theorem addressWords_le {h p : List Byte} {v : Byte} (hv : v.toNat ≤ 16) :
    ∀ x ∈ (v :: toWords p) ++ createChecksum h (v :: toWords p), x.toNat ≤ 31 :=
  List.forall_mem_append.2 ⟨List.forall_mem_cons.2 ⟨by omega, toWords_le p⟩, createChecksum_le _ _⟩

/-- R178, R179: decoding gives back what was encoded. -/
theorem b32Decode_b32Encode {h p : List Byte} {v : Byte} (hh : hrpOk h = true) (hv : v.toNat ≤ 16)
    (hp : programLengthOk v.toNat p.length = true) : b32Decode (b32Encode h v p) = .ok (h, v, p) := by
  have hwords := addressWords_le (h := h) (p := p) hv
  have hchars := wordChars_mem hwords
  have hverified := (checksumIsTheOnlyOneThatVerifies h _ _ (List.forall_mem_append.1 hwords).1 (createChecksum_le _ _)
    (createChecksum_length h (v :: toWords p))).2 rfl
  have htake : ((v :: toWords p) ++ createChecksum h (v :: toWords p)).take
      (((v :: toWords p) ++ createChecksum h (v :: toWords p)).length - 6) = v :: toWords p := by
    rw [List.length_append, createChecksum_length, Nat.add_sub_cancel, List.take_left' rfl]
  rw [b32Encode, b32Decode_of_data (fun h1 => one_not_mem_charset32 (hchars _ h1)) hh hchars, charWords_wordChars hwords,
    b32DecodeData_of_verified (by rw [List.length_append, createChecksum_length]; omega) hverified htake,
    if_neg (Nat.not_lt.2 hv), fromWords_toWords]
  exact if_pos hp

/-- R179: what decodes is the encoding of what it decodes to. -/
theorem b32Decode_ok {t h p : List Byte} {v : Byte} (hok : b32Decode t = .ok (h, v, p)) :
    t = b32Encode h v p ∧ hrpOk h = true ∧ v.toNat ≤ 16 ∧ programLengthOk v.toNat p.length = true := by
  by_cases ht : 0x31 ∈ t
  · obtain ⟨h', d, rfl, hd⟩ := exists_split_of_mem ht
    cases hh : hrpOk h' with
    | false =>
      rw [b32Decode_of_hrp hd hh] at hok
      cases hok
    | true =>
      by_cases hc : ∀ c ∈ d, c ∈ charset32
      · rw [b32Decode_of_data hd hh hc] at hok
        obtain ⟨rfl, hv, hp, hwords⟩ := b32DecodeData_ok (charWords_le hc) hok
        refine ⟨?_, hh, hv, hp⟩
        rw [b32Encode, ← hwords, wordChars_charWords hc]
      · push Not at hc
        rw [b32Decode_of_charset hd hh hc] at hok
        cases hok
  · rw [b32Decode_of_no_separator ht] at hok
    cases hok

/-- R179: the codes that a string can be refused with. -/
theorem b32Decode_error {t : List Byte} {e : ErrCode} (he : b32Decode t = .error e) :
    e ∈ [ErrCode.invalidHRP, .invalidCharset, .invalidChecksum, .invalidWitnessLength, .invalidWitnessVersion, .invalidPadding] := by
  by_cases ht : 0x31 ∈ t
  · obtain ⟨h, d, rfl, hd⟩ := exists_split_of_mem ht
    cases hh : hrpOk h with
    | false => exact Except.error.inj ((b32Decode_of_hrp hd hh).symm.trans he) ▸ by decide
    | true =>
      by_cases hc : ∀ c ∈ d, c ∈ charset32
      · rw [b32Decode_of_data hd hh hc] at he
        exact List.mem_cons_of_mem _ (List.mem_cons_of_mem _ (b32DecodeData_error he))
      · push Not at hc
        exact Except.error.inj ((b32Decode_of_charset hd hh hc).symm.trans he) ▸ by decide
  · exact Except.error.inj ((b32Decode_of_no_separator ht).symm.trans he) ▸ by decide

/-- Settles O53: the two directions. -/
theorem bech32DecodesExactlyWhatItEncodes : Obligations.Bech32DecodesExactlyWhatItEncodes :=
  ⟨fun _ _ _ => b32Decode_b32Encode, fun _ _ _ _ => b32Decode_ok⟩

/-! ### The command -/

section
variable {s : State} (hin : s.InOk)
include hin

/-- R186: a refused string. -/
theorem b32Dec_failsWith {e : ErrCode} (he : b32Decode s.input = .error e) : FailsWith .b32Dec s e :=
  failsWith_of_withIn (i := .b32Dec) rfl hin (by rw [he])

/-- R186: a string that decodes. -/
theorem exec_b32Dec {h p : List Byte} {v : Byte} (hok : b32Decode s.input = .ok (h, v, p)) : exec .b32Dec s =
    .next { s.okWith ((s.mem.setBufs .hrp 0 (h.map some)).setBufs .out 0 (p.map some)) with
      hrpLen := BitVec.ofNat 8 h.length
      result := v.setWidth 32
      outLen := BitVec.ofNat 16 p.length } := by
  rw [exec_of_withIn (i := .b32Dec) rfl hin, hok]
  rfl

/-- R179: the refusals of data words that verify, behind an accepted HRP: version, padding and program length. -/
theorem b32Dec_refuses_program {h w r : List Byte} {v : Byte} (hw : ∀ x ∈ w, x.toNat ≤ 31)
    (hdata : b32Decode s.input = b32DecodeData h w) (hlen : 6 ≤ w.length) (hpm : polymod (hrpExpand h ++ w) = 1)
    (hr : w.take (w.length - 6) = v :: r) :
    (v.toNat > 16 → FailsWith .b32Dec s .invalidWitnessVersion) ∧
    (v.toNat ≤ 16 → (∀ p, r ≠ toWords p) → FailsWith .b32Dec s .invalidPadding) ∧
    (∀ p, v.toNat ≤ 16 → r = toWords p → programLengthOk v.toNat p.length = false → FailsWith .b32Dec s .invalidWitnessLength) := by
  rw [b32DecodeData_of_verified hlen hpm hr] at hdata
  refine ⟨fun hv => ?version, fun hv hnone => ?padding, fun p hv hp hbad => ?length⟩
  case version => exact b32Dec_failsWith hin (by rw [hdata, if_pos hv])
  case padding =>
    rw [if_neg (Nat.not_lt.2 hv)] at hdata
    cases hf : fromWords r with
    | ok p =>
      have hrw : ∀ x ∈ r, x.toNat ≤ 31 := fun x hx => hw x (List.mem_of_mem_take (hr ▸ List.mem_cons_of_mem v hx))
      exact absurd (toWords_of_fromWords hrw hf) (hnone p)
    | error e =>
      rw [hf, fromWords_error hf] at hdata
      exact b32Dec_failsWith hin hdata
  case length =>
    rw [if_neg (Nat.not_lt.2 hv), hp, fromWords_toWords] at hdata
    exact b32Dec_failsWith hin (hdata.trans (if_neg (by rw [hbad]; decide)))

end

/-- Settles O54: an address decodes; what does not decode is refused with the code of the check that fails. -/
theorem bech32DecoderTakesTheAddressApart : Obligations.Bech32DecoderTakesTheAddressApart := by
  intro s hin
  refine ⟨fun h v p hh hv hp hs => ?address, fun hnone => ?other, fun ht => ?separator, fun h d hs hd => ?split⟩
  case address =>
    obtain ⟨-, hhi, -⟩ := (hrpOk_iff h).1 hh
    obtain ⟨-, hphi, -⟩ := (programLengthOk_iff v p.length).1 hp
    refine ⟨_, _, exec_b32Dec hin (by rw [hs, b32Decode_b32Encode hh hv hp]), wrote_setBufs _ .hrp 0 h ?_, wrote_setBufs _ .out 0 p ?_⟩
    · rw [Buf.cap, Config.hrpCap]
      omega
    · rw [Buf.cap, Config.outCap]
      omega
  case other =>
    cases hd : b32Decode s.input with
    | ok a =>
      obtain ⟨h, v, p⟩ := a
      obtain ⟨hs, hh, hv, hp⟩ := b32Decode_ok hd
      exact absurd hs (hnone h v p hh hv hp)
    | error e => exact ⟨e, b32Decode_error hd, b32Dec_failsWith hin hd⟩
  case separator => exact b32Dec_failsWith hin (b32Decode_of_no_separator ht)
  case split =>
    refine ⟨fun hh => ?hrp, fun hh hc => ?charset, fun w hh hw hdw => ?words⟩
    case hrp => exact b32Dec_failsWith hin (by rw [hs, b32Decode_of_hrp hd hh])
    case charset => exact b32Dec_failsWith hin (by rw [hs, b32Decode_of_charset hd hh hc])
    case words =>
      have hdata : b32Decode s.input = b32DecodeData h w := by
        rw [hs, b32Decode_of_data hd hh (hdw ▸ wordChars_mem hw), hdw, charWords_wordChars hw]
      exact ⟨fun hsum => b32Dec_failsWith hin (hdata.trans (b32DecodeData_of_checksum hsum)),
        fun hlen hpm => b32Dec_failsWith hin (hdata.trans (b32DecodeData_of_no_version hlen hpm)),
        fun v r hlen hpm hr => b32Dec_refuses_program hin hw hdata hlen hpm hr⟩

end Sys2Proof.Machine
end

section
/-! SUPPORT. What a command's updates can be, said once, and the frames that follow: which registers and buffers each command leaves
(10_state.md sections 1 and 2; 30_encoding.md R95; 60_exceptions.md R244, R245). -/

namespace Sys2Proof.Machine

open Sys2Proof

/-! ### Memory frames -/

/-- Setting bytes of a buffer leaves every address outside the buffer. -/
theorem Memory.read_setBufs_outside {m : Memory} (hm : m.wf) (b : Buf) (i : Nat) (cs : List (Option Byte)) {x : Nat}
    (hx : x < b.base ∨ b.base + b.cap ≤ x) : Memory.read (m.setBufs b i cs) x = Memory.read m x := by
  induction cs generalizing m i with
  | nil => rfl
  | cons c cs ih =>
    rw [Memory.setBufs, ih (m.wf_setBuf hm b i c), Memory.read_setBuf m hm, if_neg (by omega)]

/-- Two different buffers have no address in common. -/
theorem Buf.disjoint {b c : Buf} (h : b ≠ c) {k : Nat} (hk : k < c.cap) : c.base + k < b.base ∨ b.base + b.cap ≤ c.base + k := by
  cases b <;> cases c <;> simp_all [Buf.base, Buf.cap, Config.inCap, Config.outCap, Config.hrpCap, Config.scrCap] <;> omega

/-- Setting bytes of a buffer leaves every other buffer. -/
theorem Memory.read_setBufs_other {m : Memory} (hm : m.wf) {b c : Buf} (h : b ≠ c) (i : Nat) (cs : List (Option Byte)) {k : Nat}
    (hk : k < c.cap) : Memory.read (m.setBufs b i cs) (c.base + k) = Memory.read m (c.base + k) :=
  Memory.read_setBufs_outside hm b i cs (Buf.disjoint h hk)

/-! ### The updates of a command -/

/-- R95, column outputs: the updates a command makes on a state when it raises no error, with the bounds that R26, R28 and R29 of 10_state.md
give OUT_LEN, SCR_LEN and RESULT. -/
inductive Effect (s : State) : Instr → List Update → Prop where
  | bytes {i : Instr} {t : List Byte} (hi : namesOut i = true) (hlen : t.length ≤ Buf.out.cap) : Effect s i (outBytes t)
  | checksum {t : List Byte} {v : Word} (hlen : t.length ≤ Buf.out.cap) (hv : v.toNat < 2 ^ 30) :
      Effect s .b32Checksum (outBytes t ++ [.result v])
  | address {h p : List Byte} {n : BitVec 8} {v : Word} (hlen : p.length ≤ Buf.out.cap) (hv : v.toNat < 2 ^ 30) :
      Effect s .b32Dec ([.buf .hrp 0 (h.map some), .hrpLen n, .result v] ++ outBytes p)
  | sha {i : Instr} {h : ShaChain} (hi : i = .shaInit ∨ i = .shaBlock) : Effect s i [.shaH h]
  | rmd {i : Instr} {h : RmdChain} (hi : i = .rmdInit ∨ i = .rmdBlock) : Effect s i [.rmdH h]
  | polymod {v : Word} (hv : v.toNat < 2 ^ 30) : Effect s .b32Polymod [.result v]
  | clear : Effect s .scrClear [.scrLen 0]
  | append {i : Instr} {t : List Byte} (hi : i = .scrPush ∨ ∃ b, i = .scrOp b) (hlen : s.scrLen.toNat + t.length ≤ Buf.scr.cap) :
      Effect s i (s.appendScript t)
  | multi2 {t : List Byte} (hlen : t.length = 71) : Effect s .scrMulti2 [.buf .scr 0 (t.map some), .scrLen 71]
  | xfer {cs : List (Option Byte)} : Effect s .xfer [.buf .inb 0 cs, .inLen s.outLen]
  | prepend {b : Byte} {t : List Byte} {n : BitVec 16} : Effect s (.prepend b) [.buf .inb 0 (t.map some), .inLen n]

/-- R244, R245: what a command's `Exec` can answer: an error, though not that of an illegal word, or its updates. -/
inductive Answers (s : State) (i : Instr) : Except ErrCode (List Update) → Prop where
  | error {e : ErrCode} (he : e ≠ .illegalCommand) : Answers s i (.error e)
  | ok {u : List Update} (hu : Effect s i u) : Answers s i (.ok u)

section
variable {s : State} {i : Instr}

/-- A check adds an error at most. -/
theorem answers_check (p : Prop) [Decidable p] {e : ErrCode} (he : e ≠ .illegalCommand) {r : Except ErrCode (List Update)}
    (hr : ¬ p → Answers s i r) : Answers s i (if p then .error e else r) := by
  split
  · exact .error he
  · rename_i hp
    exact hr hp

/-- `InBytes()` gives at most 256 bytes or an error. -/
theorem answers_withIn {k : List Byte → Except ErrCode (List Update)} (hk : ∀ m : List Byte, m.length ≤ 256 → Answers s i (k m)) :
    Answers s i (s.withIn k) := by
  by_cases hin : s.InOk
  · rw [withIn_ok s hin]
    exact hk _ (by rwa [input_length])
  · rw [withIn_error s hin]
    exact .error (by decide)

/-- `HrpBytes()` gives an accepted HRP or an error. -/
theorem answers_withHrp {k : List Byte → Except ErrCode (List Update)} (hk : ∀ h, hrpOk h = true → Answers s i (k h)) :
    Answers s i (s.withHrp k) := by
  by_cases hh : s.HrpInOk
  · rw [withHrp_ok s hh]
    exact hk _ ((hrpInOk_iff s).1 hh)
  · rw [withHrp_error s hh]
    exact .error (by decide)

/-- Bytes for OUT, which OUT holds. -/
theorem answers_bytes (hi : namesOut i = true) {t : List Byte} (hlen : t.length ≤ 512) : Answers s i (.ok (outBytes t)) :=
  .ok (.bytes hi hlen)

end

/-- A value of 30 bits, widened with zeros, is below `2 ^ 30`. -/
theorem setWidth_lt (v : BitVec 30) : (v.setWidth 32).toNat < 2 ^ 30 := by
  rw [BitVec.toNat_setWidth]
  have := v.isLt
  omega

/-- R156: what `B58_DEC` answers of its operand. -/
theorem answers_b58Dec (s : State) : Answers s .b58Dec (s.withIn fun m =>
    match b58Decode m with
    | .error e => .error e
    | .ok r => .ok (outBytes r)) := by
  refine answers_withIn fun m hm => ?_
  cases hd : b58Decode m with
  | error e => exact .error (b58Decode_error_eq hd ▸ by decide)
  | ok r =>
    obtain ⟨-, hlen⟩ := b58Decode_ok hd
    exact answers_bytes rfl (by omega)

/-- R158: what `B58CHK_DEC` answers of its operand. -/
theorem answers_b58chkDec (s : State) : Answers s .b58chkDec (s.withIn fun m =>
    match b58checkDecode m with
    | .error e => .error e
    | .ok p => .ok (outBytes p)) := by
  refine answers_withIn fun m hm => ?_
  cases hd : b58checkDecode m with
  | error e =>
    obtain ⟨-, rfl⟩ | rfl := b58checkDecode_error_eq hd <;> exact .error (by decide)
  | ok p =>
    obtain ⟨-, hlen⟩ := b58checkDecode_ok hd
    exact answers_bytes rfl (by omega)

/-- R181: what `B32_FROMWORDS` answers of its operand. -/
theorem answers_b32Fromwords (s : State) : Answers s .b32Fromwords (s.withIn fun w =>
    if notWords w then .error .invalidInput
    else match fromWords w with
      | .error e => .error e
      | .ok b => .ok (outBytes b)) := by
  refine answers_withIn fun w hw => answers_check _ (by decide) fun hnot => ?_
  cases hf : fromWords w with
  | error e => exact .error (fromWords_error hf ▸ by decide)
  | ok b =>
    have hlen := congrArg List.length (toWords_of_fromWords (le_of_not_notWords hnot) hf)
    rw [toWords_length] at hlen
    exact answers_bytes rfl (by omega)

/-- R186: what `B32_DEC` answers of its operand. -/
theorem answers_b32Dec (s : State) : Answers s .b32Dec (s.withIn fun m =>
    match b32Decode m with
    | .error e => .error e
    | .ok (h, ver, prog) =>
      .ok ([.buf .hrp 0 (h.map some), .hrpLen (BitVec.ofNat 8 h.length), .result (ver.setWidth 32)] ++ outBytes prog)) := by
  refine answers_withIn fun m hm => ?_
  cases hd : b32Decode m with
  | error e =>
    have hmem := b32Decode_error hd
    exact .error fun h => absurd (h ▸ hmem) (by decide)
  | ok a =>
    obtain ⟨h, v, p⟩ := a
    obtain ⟨-, -, -, hlen⟩ := b32Decode_ok hd
    obtain ⟨-, hhi, -⟩ := (programLengthOk_iff v p.length).1 hlen
    have hv := v.isLt
    refine .ok (.address (show p.length ≤ 512 by omega) ?_)
    rw [BitVec.toNat_setWidth]
    omega

/-- R185: what `B32_ENC` answers of its operands. -/
theorem answers_b32Enc (s : State) (v : Byte) : Answers s (.b32Enc v) (s.withIn fun prog => s.withHrp fun h =>
    if v.toNat > 16 then .error .invalidInput
    else if programLengthOk v.toNat prog.length = false then .error .invalidInput
    else .ok (outBytes (b32Encode h v prog))) := by
  refine answers_withIn fun m hm => answers_withHrp fun h hh => answers_check _ (by decide) fun _ => answers_check _ (by decide) fun _ =>
    answers_bytes rfl ?_
  obtain ⟨-, hhi, -⟩ := (hrpOk_iff h).1 hh
  rw [b32Encode_length]
  omega

/-- R244: every command, on every state, answers an error or its updates. The cases are grouped by what stands before the updates. -/
theorem exec_answers (i : Instr) (s : State) : ∃ r, exec i s = s.complete r ∧ Answers s i r := by
  cases i with
  | sha256 => exact ⟨_, rfl, answers_withIn fun m _ => answers_bytes rfl ((sha256_length m).trans_le (by decide))⟩
  | rmd160 => exact ⟨_, rfl, answers_withIn fun m _ => answers_bytes rfl ((ripemd160_length m).trans_le (by decide))⟩
  | sha256d => exact ⟨_, rfl, answers_withIn fun m _ => answers_bytes rfl ((sha256d_length m).trans_le (by decide))⟩
  | checksum4 => exact ⟨_, rfl, answers_withIn fun m _ => answers_bytes rfl ((checksum4_length m).trans_le (by decide))⟩
  | hash160 =>
    exact ⟨_, rfl, answers_withIn fun m _ => answers_check _ (by decide) fun _ => answers_check _ (by decide) fun _ =>
      answers_bytes rfl ((hash160_length m).trans_le (by decide))⟩
  | shaInit => exact ⟨_, rfl, .ok (.sha (.inl rfl))⟩
  | rmdInit => exact ⟨_, rfl, .ok (.rmd (.inl rfl))⟩
  | shaBlock => exact ⟨_, rfl, answers_withIn fun m _ => answers_check _ (by decide) fun _ => .ok (.sha (.inr rfl))⟩
  | rmdBlock => exact ⟨_, rfl, answers_withIn fun m _ => answers_check _ (by decide) fun _ => .ok (.rmd (.inr rfl))⟩
  | b58Enc => exact ⟨_, rfl, answers_withIn fun m hm => answers_bytes rfl ((b58Encode_length_le_350 hm).trans (by decide))⟩
  | b58chkEnc => exact ⟨_, rfl, answers_withIn fun m hm => answers_bytes rfl ((b58checkEncode_length_le_356 hm).trans (by decide))⟩
  | b58Dec => exact ⟨_, rfl, answers_b58Dec s⟩
  | b58chkDec => exact ⟨_, rfl, answers_b58chkDec s⟩
  | b32Towords => exact ⟨_, rfl, answers_withIn fun m hm => answers_bytes rfl (by rw [toWords_length]; omega)⟩
  | b32Fromwords => exact ⟨_, rfl, answers_b32Fromwords s⟩
  | b32Hrpexp =>
    refine ⟨_, rfl, answers_withHrp fun h hh => answers_bytes rfl ?_⟩
    obtain ⟨-, hlen, -⟩ := (hrpOk_iff h).1 hh
    rw [hrpExpand_length]
    omega
  | b32Polymod => exact ⟨_, rfl, answers_withIn fun m _ => answers_check _ (by decide) fun _ => .ok (.polymod (setWidth_lt _))⟩
  | b32Checksum =>
    exact ⟨_, rfl, answers_withIn fun m _ => answers_withHrp fun h _ => answers_check _ (by decide) fun _ =>
      .ok (.checksum (by rw [createChecksum_length]; decide) (setWidth_lt _))⟩
  | b32Enc v => exact ⟨_, rfl, answers_b32Enc s v⟩
  | b32Dec => exact ⟨_, rfl, answers_b32Dec s⟩
  | scrClear => exact ⟨_, rfl, .ok .clear⟩
  | scrPush =>
    refine ⟨_, rfl, answers_withIn fun m hm => answers_check _ (by decide) fun _ => answers_check _ (by decide) fun hfit =>
      .ok (.append (.inl rfl) ?_)⟩
    rw [pushBytes, List.length_cons, Buf.cap]
    omega
  | scrOp b => exact ⟨_, rfl, answers_check _ (by decide) fun hfit => .ok (.append (.inr ⟨b, rfl⟩) (Nat.not_lt.1 hfit))⟩
  | scrHash => exact ⟨_, rfl, answers_bytes rfl ((sha256_length _).trans_le (by decide))⟩
  | scrMulti2 =>
    refine ⟨_, rfl, answers_withIn fun m hm => answers_check _ (by decide) fun hlen => answers_check _ (by decide) fun _ =>
      .ok (.multi2 ?_)⟩
    simp [multi2Script, not_not.1 hlen]
  | xfer => exact ⟨_, rfl, answers_check _ (by decide) fun _ => .ok .xfer⟩
  | prepend b => exact ⟨_, rfl, answers_withIn fun m _ => answers_check _ (by decide) fun _ => .ok .prepend⟩

end Sys2Proof.Machine
end

section
/-! SUPPORT. Completion, errors and frames of every command, from what its answer can be (10_state.md sections 1 and 2; 60_exceptions.md
R241, R244, R245). -/

namespace Sys2Proof.Machine

open Sys2Proof

/-- R244, R245: every command ends in a failed completion, or in one with its updates. -/
theorem exec_cases (i : Instr) (s : State) : (∃ e, e ≠ ErrCode.illegalCommand ∧ exec i s = .next (s.failed e)) ∨
    ∃ u, Effect s i u ∧ exec i s = .next ((s.applyAll u).finish 0) := by
  obtain ⟨r, hr, ha⟩ := exec_answers i s
  cases ha with
  | error he => exact .inl ⟨_, he, hr.trans (congrArg Host.Outcome.next (completed_error s _))⟩
  | ok hu => exact .inr ⟨_, hu, hr⟩

/-- The same of a next state that is given. -/
theorem next_cases {i : Instr} {s t : State} (h : exec i s = .next t) :
    (∃ e, t = s.failed e) ∨ ∃ u, Effect s i u ∧ t = (s.applyAll u).finish 0 := by
  obtain ⟨e, -, he⟩ | ⟨u, hu, ht⟩ := exec_cases i s
  · exact .inl ⟨e, Host.Outcome.next.inj (h.symm.trans he)⟩
  · exact .inr ⟨u, hu, Host.Outcome.next.inj (h.symm.trans ht)⟩

/-- R240: only an illegal word has code 13. -/
theorem ErrCode.code_le_twelve {e : ErrCode} (he : e ≠ .illegalCommand) : e.code.toNat ≤ 12 := by
  cases e with
  | illegalCommand => exact absurd rfl he
  | _ => decide

/-- Settles O8: a completion step leaves what R244 says, and no update touches what R24 and R287 keep. -/
theorem everyCommandEndsInACompletion : Obligations.EveryCommandEndsInACompletion := by
  intro i s
  obtain ⟨e, he, hnext⟩ | ⟨u, -, hnext⟩ := exec_cases i s
  · exact ⟨_, hnext, rfl, rfl, (bne_iff_ne.2 e.code_ne_zero).symm, ErrCode.code_le_twelve he, rfl, rfl, rfl, rfl, rfl, rfl⟩
  · obtain ⟨hie, hhaz, hcmd, hreset, -, hhost, hans⟩ := applyAll_frame s u
    exact ⟨_, hnext, rfl, rfl, rfl, Nat.zero_le _, hie, hhaz, hcmd, hreset, hhost, hans⟩

/-- Settles O9: only the failed completion sets ERR. -/
theorem erringCommandChangesOnlyStatus : Obligations.ErringCommandChangesOnlyStatus := by
  intro i s t h herr
  obtain he | ⟨u, -, rfl⟩ := next_cases h
  · exact he
  · cases herr

/-! ### LengthRange -/

/-- A command fails with an error exactly when that error is its answer. -/
theorem failsWith_iff {i : Instr} {s : State} {r : Except ErrCode (List Update)} (h : exec i s = s.complete r) (e : ErrCode) :
    FailsWith i s e ↔ r = .error e := by
  refine ⟨fun hf => ?_, fun hr => failsWith_of i s e (hr ▸ h)⟩
  have hcompleted : s.completed r = s.failed e := Host.Outcome.next.inj (h.symm.trans hf)
  cases r with
  | ok u => cases congrArg State.err hcompleted
  | error f =>
    rw [completed_error] at hcompleted
    rw [f.code_injective e (congrArg State.errcode hcompleted)]

/-- The answer is not the error LengthRange. -/
def NoLengthRange (r : Except ErrCode (List Update)) : Prop := r ≠ .error .lengthRange

/-- Success is none. -/
theorem noLengthRange_ok (u : List Update) : NoLengthRange (.ok u) := nofun

/-- Another error is none. -/
theorem noLengthRange_error {e : ErrCode} (he : e ≠ .lengthRange) : NoLengthRange (.error e) := fun h => he (Except.error.inj h)

/-- A check for another error adds none. -/
theorem noLengthRange_check (p : Prop) [Decidable p] {e : ErrCode} (he : e ≠ .lengthRange) {r : Except ErrCode (List Update)}
    (hr : NoLengthRange r) : NoLengthRange (if p then .error e else r) := by
  split
  · exact noLengthRange_error he
  · exact hr

/-- `HrpBytes()` adds none (notes/assumptions/17.md). -/
theorem noLengthRange_withHrp (s : State) {k : List Byte → Except ErrCode (List Update)} (hk : ∀ h, NoLengthRange (k h)) :
    NoLengthRange (s.withHrp k) := by
  by_cases hh : s.HrpInOk
  · rw [withHrp_ok s hh]
    exact hk _
  · rw [withHrp_error s hh]
    exact noLengthRange_error (by decide)

/-- R93: a command that reads IN and has no other use of LengthRange raises it exactly for an IN_LEN that is out of range. -/
theorem failsWith_lengthRange_iff {i : Instr} {s : State} {k : List Byte → Except ErrCode (List Update)}
    (h : exec i s = s.complete (s.withIn k)) (hk : ∀ m, NoLengthRange (k m)) : FailsWith i s .lengthRange ↔ s.inLen.toNat > 256 := by
  rw [failsWith_iff h]
  by_cases hin : s.InOk
  · rw [withIn_ok s hin]
    exact iff_of_false (hk _) (Nat.not_lt.2 hin)
  · rw [withIn_error s hin]
    exact iff_of_true rfl (Nat.not_le.1 hin)

/-- A command whose answer is never LengthRange. -/
theorem not_failsWith_lengthRange {i : Instr} {s : State} {r : Except ErrCode (List Update)} (h : exec i s = s.complete r)
    (hr : NoLengthRange r) : ¬ FailsWith i s .lengthRange := by
  rwa [failsWith_iff h]

/-- R156: what `B58_DEC` answers of its operand. -/
theorem noLengthRange_b58Dec (m : List Byte) : NoLengthRange (match b58Decode m with
    | .error e => .error e
    | .ok r => .ok (outBytes r)) := by
  cases hd : b58Decode m with
  | error e => exact noLengthRange_error (b58Decode_error_eq hd ▸ by decide)
  | ok r => exact noLengthRange_ok _

/-- R158: what `B58CHK_DEC` answers of its operand. -/
theorem noLengthRange_b58chkDec (m : List Byte) : NoLengthRange (match b58checkDecode m with
    | .error e => .error e
    | .ok p => .ok (outBytes p)) := by
  cases hd : b58checkDecode m with
  | error e => obtain ⟨-, rfl⟩ | rfl := b58checkDecode_error_eq hd <;> exact noLengthRange_error (by decide)
  | ok p => exact noLengthRange_ok _

/-- R181: what `B32_FROMWORDS` answers of words. -/
theorem noLengthRange_b32Fromwords (w : List Byte) : NoLengthRange (match fromWords w with
    | .error e => .error e
    | .ok b => .ok (outBytes b)) := by
  cases hf : fromWords w with
  | error e => exact noLengthRange_error (fromWords_error hf ▸ by decide)
  | ok b => exact noLengthRange_ok _

/-- R186: what `B32_DEC` answers of its operand. -/
theorem noLengthRange_b32Dec (m : List Byte) : NoLengthRange (match b32Decode m with
    | .error e => .error e
    | .ok (h, ver, prog) =>
      .ok ([.buf .hrp 0 (h.map some), .hrpLen (BitVec.ofNat 8 h.length), .result (ver.setWidth 32)] ++ outBytes prog)) := by
  cases hd : b32Decode m with
  | error e =>
    have hmem := b32Decode_error hd
    exact noLengthRange_error fun h => absurd (h ▸ hmem) (by decide)
  | ok a => exact noLengthRange_ok _

/-- R241: the commands for which an IN_LEN above 256 is the only LengthRange. -/
theorem lengthRange_of_inLen (s : State) : ∀ i ∈ [Instr.sha256, .rmd160, .hash160 false, .hash160 true, .sha256d, .checksum4, .b58Enc,
    .b58Dec, .b58chkEnc, .b58chkDec, .b32Towords, .b32Fromwords, .b32Polymod, .b32Checksum, .b32Dec, .scrMulti2],
    FailsWith i s .lengthRange ↔ s.inLen.toNat > 256 := by
  have hbytes {i : Instr} {f : List Byte → List Update} (h : exec i s = s.complete (s.withIn fun m => .ok (f m))) :=
    failsWith_lengthRange_iff h fun _ => noLengthRange_ok _
  have hkey (key : Bool) : FailsWith (.hash160 key) s .lengthRange ↔ s.inLen.toNat > 256 :=
    failsWith_lengthRange_iff rfl fun _ => noLengthRange_check _ (by decide) (noLengthRange_check _ (by decide) (noLengthRange_ok _))
  simp only [List.forall_mem_cons]
  refine ⟨hbytes rfl, hbytes rfl, hkey false, hkey true, hbytes rfl, hbytes rfl, hbytes rfl, failsWith_lengthRange_iff rfl noLengthRange_b58Dec,
    hbytes rfl, failsWith_lengthRange_iff rfl noLengthRange_b58chkDec, hbytes rfl, ?fromwords, ?polymod, ?checksum,
    failsWith_lengthRange_iff rfl noLengthRange_b32Dec, ?multi2, List.forall_mem_nil _⟩
  case fromwords =>
    exact failsWith_lengthRange_iff rfl fun w => noLengthRange_check _ (by decide) (noLengthRange_b32Fromwords w)
  case polymod => exact failsWith_lengthRange_iff rfl fun _ => noLengthRange_check _ (by decide) (noLengthRange_ok _)
  case checksum =>
    exact failsWith_lengthRange_iff rfl fun _ => noLengthRange_withHrp s fun _ => noLengthRange_check _ (by decide) (noLengthRange_ok _)
  case multi2 =>
    exact failsWith_lengthRange_iff rfl fun _ => noLengthRange_check _ (by decide) (noLengthRange_check _ (by decide) (noLengthRange_ok _))

/-- A check with LengthRange on a command's own lengths. -/
theorem check_lengthRange_iff (p : Prop) [Decidable p] (u : List Update) :
    (if p then .error .lengthRange else .ok u : Except ErrCode (List Update)) = .error .lengthRange ↔ p := by
  split_ifs with hp
  · exact iff_of_true rfl hp
  · exact iff_of_false nofun hp

/-- R131, R133: a block command raises LengthRange for every IN_LEN but 64. -/
theorem withIn_block_lengthRange_iff (s : State) (u : List Byte → List Update) :
    (s.withIn fun m => if m.length ≠ 64 then .error .lengthRange else .ok (u m)) = .error .lengthRange ↔ s.inLen.toNat ≠ 64 := by
  by_cases hlen : s.inLen.toNat = 64
  · rw [withIn_block hlen]
    exact iff_of_false (noLengthRange_ok _) (not_not.2 hlen)
  · rw [withIn_block_error hlen]
    exact iff_of_true rfl hlen

/-- Settles O10: per command, what stands before the updates. -/
theorem lengthRangeIsRaisedExactlyWhen : Obligations.LengthRangeIsRaisedExactlyWhen := by
  intro s
  refine ⟨lengthRange_of_inLen s, fun v => ?enc, ?shaBlock, ?rmdBlock, ?push, fun b => ?op, ?xfer, fun b => ?prepend, ?never⟩
  case enc =>
    exact failsWith_lengthRange_iff rfl fun _ => noLengthRange_withHrp s fun _ =>
      noLengthRange_check _ (by decide) (noLengthRange_check _ (by decide) (noLengthRange_ok _))
  case shaBlock => exact (failsWith_iff (exec_shaBlock s) _).trans (withIn_block_lengthRange_iff s _)
  case rmdBlock => exact (failsWith_iff (exec_rmdBlock s) _).trans (withIn_block_lengthRange_iff s _)
  case push =>
    rw [failsWith_iff (i := .scrPush) rfl]
    by_cases hin : s.InOk
    · have hle : s.inLen.toNat ≤ 256 := hin
      rw [withIn_ok s hin, input_length, Config.maxPush, Config.scrCap]
      by_cases hpush : s.inLen.toNat > 75
      · rw [if_pos hpush]
        exact iff_of_false (noLengthRange_error (by decide)) (by omega)
      · rw [if_neg hpush, check_lengthRange_iff]
        omega
    · have hgt : 256 < s.inLen.toNat := Nat.not_le.1 hin
      rw [withIn_error s hin]
      exact iff_of_true rfl (.inl hgt)
  case op => exact (failsWith_iff (i := .scrOp b) rfl _).trans (check_lengthRange_iff _ _)
  case xfer => exact (failsWith_iff (i := .xfer) rfl _).trans (check_lengthRange_iff _ _)
  case prepend =>
    rw [failsWith_iff (i := .prepend b) rfl]
    by_cases hin : s.InOk
    · rw [withIn_ok s hin, input_length, check_lengthRange_iff, Config.inCap]
    · have hgt : 256 < s.inLen.toNat := Nat.not_le.1 hin
      rw [withIn_error s hin]
      exact iff_of_true rfl hgt.le
  case never =>
    simp only [List.forall_mem_cons]
    exact ⟨not_failsWith_lengthRange rfl (noLengthRange_ok _), not_failsWith_lengthRange rfl (noLengthRange_ok _),
      not_failsWith_lengthRange rfl (noLengthRange_withHrp s fun _ => noLengthRange_ok _),
      not_failsWith_lengthRange rfl (noLengthRange_ok _), not_failsWith_lengthRange rfl (noLengthRange_ok _), List.forall_mem_nil _⟩

/-! ### Registers -/

section
variable {s : State} {i : Instr} {u : List Update} (hu : Effect s i u)
include hu

/-- R25: IN_LEN changes by XFER and PREPEND. -/
theorem Effect.inLen_eq (hx : i ≠ .xfer) (hp : ∀ b, i ≠ .prepend b) : (s.applyAll u).inLen = s.inLen := by
  cases hu with
  | xfer => exact absurd rfl hx
  | prepend => exact absurd rfl (hp _)
  | _ => rfl

/-- R26: OUT_LEN changes by the commands that put bytes in OUT. -/
theorem Effect.outLen_eq (hi : namesOut i = false) : (s.applyAll u).outLen = s.outLen := by
  cases hu with
  | bytes hout => cases hi.symm.trans hout
  | checksum | address => cases hi
  | _ => rfl

/-- R27: HRP_LEN changes by B32_DEC. -/
theorem Effect.hrpLen_eq (hi : i ≠ .b32Dec) : (s.applyAll u).hrpLen = s.hrpLen := by
  cases hu with
  | address => exact absurd rfl hi
  | _ => rfl

/-- R28: SCR_LEN changes by the script commands but SCR_HASH. -/
theorem Effect.scrLen_eq (hc : i ≠ .scrClear) (hp : i ≠ .scrPush) (ho : ∀ b, i ≠ .scrOp b) (hm : i ≠ .scrMulti2) :
    (s.applyAll u).scrLen = s.scrLen := by
  cases hu with
  | clear => exact absurd rfl hc
  | append hi =>
    obtain h | ⟨b, h⟩ := hi
    · exact absurd h hp
    · exact absurd h (ho b)
  | multi2 => exact absurd rfl hm
  | _ => rfl

/-- R29: RESULT changes by B32_POLYMOD, B32_CHECKSUM and B32_DEC. -/
theorem Effect.result_eq (hp : i ≠ .b32Polymod) (hc : i ≠ .b32Checksum) (hd : i ≠ .b32Dec) : (s.applyAll u).result = s.result := by
  cases hu with
  | checksum => exact absurd rfl hc
  | address => exact absurd rfl hd
  | polymod => exact absurd rfl hp
  | _ => rfl

end

/-- Settles O18: an error leaves the registers, and no updates but those of the named commands write one. -/
theorem registersChangeOnlyByTheirCommands : Obligations.RegistersChangeOnlyByTheirCommands := by
  intro i s t h
  obtain ⟨e, rfl⟩ | ⟨u, hu, rfl⟩ := next_cases h
  · exact ⟨fun _ _ => rfl, fun _ => rfl, fun _ => rfl, fun _ _ _ _ => rfl, fun _ _ _ => rfl⟩
  · exact ⟨hu.inLen_eq, hu.outLen_eq, hu.hrpLen_eq, hu.scrLen_eq, hu.result_eq⟩

/-! ### Buffers -/

/-- The update sets bytes of the buffer. -/
def Update.touches : Update → Buf → Bool
  | .buf b _ _, c => b == c
  | _, _ => false

/-- An update keeps memory in its canonical form. -/
theorem apply_mem_wf {s : State} (hm : s.mem.wf) (x : Update) : (s.apply x).mem.wf := by
  cases x with
  | buf b i cs => exact s.mem.wf_setBufs hm b i cs
  | _ => exact hm

/-- Updates keep memory in its canonical form. -/
theorem applyAll_mem_wf {s : State} (hm : s.mem.wf) (u : List Update) : (s.applyAll u).mem.wf := by
  induction u generalizing s with
  | nil => exact hm
  | cons x u ih => exact ih (apply_mem_wf hm x)

/-- An update leaves a buffer that it does not touch. -/
theorem apply_mem_read_eq {s : State} (hm : s.mem.wf) {x : Update} {b : Buf} (hx : x.touches b = false) {k : Nat} (hk : k < b.cap) :
    (s.apply x).mem.read (b.base + k) = s.mem.read (b.base + k) := by
  cases x with
  | buf c i cs => exact Memory.read_setBufs_other hm (beq_eq_false_iff_ne.1 hx) i cs hk
  | _ => rfl

/-- Updates leave a buffer that none of them touches. -/
theorem applyAll_mem_read_eq {s : State} (hm : s.mem.wf) {u : List Update} {b : Buf} (hu : ∀ x ∈ u, x.touches b = false) {k : Nat}
    (hk : k < b.cap) : (s.applyAll u).mem.read (b.base + k) = s.mem.read (b.base + k) := by
  induction u generalizing s with
  | nil => rfl
  | cons x u ih =>
    obtain ⟨hx, hu⟩ := List.forall_mem_cons.1 hu
    exact (ih (apply_mem_wf hm x) hu).trans (apply_mem_read_eq hm hx hk)

section
variable {s : State} {i : Instr} {u : List Update} (hu : Effect s i u)
include hu

/-- R32: IN changes by XFER and PREPEND. -/
theorem Effect.leaves_in (hx : i ≠ .xfer) (hp : ∀ b, i ≠ .prepend b) : ∀ x ∈ u, x.touches .inb = false := by
  cases hu with
  | xfer => exact absurd rfl hx
  | prepend => exact absurd rfl (hp _)
  | _ => simp [outBytes, State.appendScript, Update.touches]

/-- R32: OUT changes by the commands that put bytes there. -/
theorem Effect.leaves_out (hi : namesOut i = false) : ∀ x ∈ u, x.touches .out = false := by
  cases hu with
  | bytes hout => cases hi.symm.trans hout
  | checksum | address => cases hi
  | _ => simp [State.appendScript, Update.touches]

/-- R32: HRP changes by B32_DEC. -/
theorem Effect.leaves_hrp (hi : i ≠ .b32Dec) : ∀ x ∈ u, x.touches .hrp = false := by
  cases hu with
  | address => exact absurd rfl hi
  | _ => simp [outBytes, State.appendScript, Update.touches]

/-- R32: SCR changes by the commands that append to the script or replace it. -/
theorem Effect.leaves_scr (hp : i ≠ .scrPush) (ho : ∀ b, i ≠ .scrOp b) (hm : i ≠ .scrMulti2) : ∀ x ∈ u, x.touches .scr = false := by
  cases hu with
  | append hi =>
    obtain h | ⟨b, h⟩ := hi
    · exact absurd h hp
    · exact absurd h (ho b)
  | multi2 => exact absurd rfl hm
  | _ => simp [outBytes, Update.touches]

end

/-- U12: bytes put in OUT stop at the OUT_LEN they set. -/
theorem outBytes_read_past {s : State} (hm : s.mem.wf) {t : List Byte} (hlen : t.length ≤ Buf.out.cap) {k : Nat}
    (hk : (s.applyAll (outBytes t)).outLen.toNat ≤ k) :
    (s.applyAll (outBytes t)).mem.read (Buf.out.base + k) = s.mem.read (Buf.out.base + k) := by
  have hcap : t.length ≤ 512 := hlen
  have hlen16 : (s.applyAll (outBytes t)).outLen.toNat = t.length := Nat.mod_eq_of_lt (by omega)
  rw [hlen16] at hk
  exact (Memory.read_setBufs s.mem hm .out 0 (t.map some) (by simpa using hlen) _).trans (if_neg (by rw [List.length_map]; omega))

/-- U12: a command leaves OUT from the OUT_LEN on that it leaves. -/
theorem Effect.out_read_past {s : State} {i : Instr} {u : List Update} (hu : Effect s i u) (hm : s.mem.wf) {k : Nat} (hcap : k < Buf.out.cap)
    (hk : (s.applyAll u).outLen.toNat ≤ k) : (s.applyAll u).mem.read (Buf.out.base + k) = s.mem.read (Buf.out.base + k) := by
  by_cases hi : namesOut i = false
  · exact applyAll_mem_read_eq hm (hu.leaves_out hi) hcap
  · cases hu with
    | bytes _ hlen => exact outBytes_read_past hm hlen hk
    | checksum hlen => exact outBytes_read_past hm hlen hk
    | @address h p n v hlen =>
      have hhrp := Memory.read_setBufs_other hm (b := .hrp) (c := .out) (by decide) 0 (h.map some) hcap
      exact (outBytes_read_past (s := s.applyAll [.buf .hrp 0 (h.map some), .hrpLen n, .result v]) (s.mem.wf_setBufs hm _ _ _) hlen hk).trans hhrp
    | sha h => obtain rfl | rfl := h <;> exact absurd rfl hi
    | rmd h => obtain rfl | rfl := h <;> exact absurd rfl hi
    | append h => obtain rfl | ⟨b, rfl⟩ := h <;> exact absurd rfl hi
    | polymod | clear | multi2 | xfer | prepend => exact absurd rfl hi

/-- Settles O19: an error leaves memory, and no updates but those of the named commands touch a buffer. -/
theorem buffersChangeOnlyByTheirCommands : Obligations.BuffersChangeOnlyByTheirCommands := by
  intro i s t hm h
  obtain ⟨e, rfl⟩ | ⟨u, hu, rfl⟩ := next_cases h
  · exact ⟨fun _ _ _ _ => rfl, fun _ _ _ => rfl, fun _ _ _ => rfl, fun _ _ _ => rfl, fun _ _ _ _ _ => rfl⟩
  · exact ⟨fun hx hp _ hk => applyAll_mem_read_eq hm (hu.leaves_in hx hp) hk, fun hi _ hk => applyAll_mem_read_eq hm (hu.leaves_out hi) hk,
      fun _ hcap hk => hu.out_read_past hm hcap hk, fun hi _ hk => applyAll_mem_read_eq hm (hu.leaves_hrp hi) hk,
      fun hp ho hmulti _ hk => applyAll_mem_read_eq hm (hu.leaves_scr hp ho hmulti) hk⟩

end Sys2Proof.Machine
end

section
/-! SUPPORT. The block's invariant: reset meets it, and every step of host and engine keeps it (10_state.md sections 1 to 6). -/

namespace Sys2Proof.Machine

open Sys2Proof

/-! ### The data that commands write -/

/-- The part of the invariant about memory, the lengths and RESULT (R26, R28, R29, R33). -/
structure State.DataInv (s : State) : Prop where
  memWf : s.mem.wf
  outLenLe : s.outLen.toNat ≤ Buf.out.cap
  scrLenLe : s.scrLen.toNat ≤ Buf.scr.cap
  resultLt : s.result.toNat < 2 ^ 30
  outKnown : ∀ i, i < s.outLen.toNat → (s.mem.read (Buf.out.base + i)).isSome = true
  scrKnown : ∀ i, i < s.scrLen.toNat → (s.mem.read (Buf.scr.base + i)).isSome = true

/-- It is part of the invariant. -/
theorem State.Inv.data {s : State} (h : s.Inv) : s.DataInv :=
  ⟨h.memWf, h.outLenLe, h.scrLenLe, h.resultLt, h.outKnown, h.scrKnown⟩

/-- Known bytes set from byte `i` of a buffer on are known there. -/
theorem Memory.isSome_setBufs {m : Memory} (hm : m.wf) {b : Buf} {i : Nat} {t : List Byte} (hcap : i + t.length ≤ b.cap) {k : Nat}
    (hk : k < i + t.length) (hbelow : k < i → (m.read (b.base + k)).isSome = true) :
    ((m.setBufs b i (t.map some)).read (b.base + k)).isSome = true := by
  rw [Memory.read_setBufs m hm b i _ (by rwa [List.length_map])]
  split
  · rename_i h
    have hj : b.base + k - (b.base + i) < t.length := by
      rw [List.length_map] at h
      omega
    simp [hj]
  · rename_i h
    rw [List.length_map] at h
    exact hbelow (by omega)

section
variable {s : State} (hs : s.DataInv)
include hs

/-- It is about these four parts of the state alone. -/
theorem DataInv.of_eq {t : State} (hm : t.mem = s.mem) (ho : t.outLen = s.outLen) (hc : t.scrLen = s.scrLen)
    (hr : t.result = s.result) : t.DataInv where
  memWf := hm ▸ hs.memWf
  outLenLe := ho ▸ hs.outLenLe
  scrLenLe := hc ▸ hs.scrLenLe
  resultLt := hr ▸ hs.resultLt
  outKnown := hm ▸ ho ▸ hs.outKnown
  scrKnown := hm ▸ hc ▸ hs.scrKnown

/-- IN and HRP have no part in it. -/
theorem DataInv.setBufs {b : Buf} (ho : b ≠ .out) (hc : b ≠ .scr) (i : Nat) (cs : List (Option Byte)) :
    State.DataInv { s with mem := s.mem.setBufs b i cs } where
  memWf := s.mem.wf_setBufs hs.memWf b i cs
  outLenLe := hs.outLenLe
  scrLenLe := hs.scrLenLe
  resultLt := hs.resultLt
  outKnown k hk := (Memory.read_setBufs_other hs.memWf ho i cs (hk.trans_le hs.outLenLe)).symm ▸ hs.outKnown k hk
  scrKnown k hk := (Memory.read_setBufs_other hs.memWf hc i cs (hk.trans_le hs.scrLenLe)).symm ▸ hs.scrKnown k hk

/-- RESULT takes a value of 30 bits. -/
theorem DataInv.result {v : Word} (hv : v.toNat < 2 ^ 30) : State.DataInv { s with result := v } :=
  { hs with resultLt := hv }

/-- R26: bytes put in OUT, with their length. -/
theorem DataInv.outBytes {t : List Byte} (hlen : t.length ≤ Buf.out.cap) : (s.applyAll (outBytes t)).DataInv := by
  have hcap : t.length ≤ 512 := hlen
  have hlen16 : (s.applyAll (Machine.outBytes t)).outLen.toNat = t.length := Nat.mod_eq_of_lt (by omega)
  exact
    { memWf := applyAll_mem_wf hs.memWf _
      outLenLe := hlen16.trans_le hlen
      scrLenLe := hs.scrLenLe
      resultLt := hs.resultLt
      outKnown := fun k hk => Memory.isSome_setBufs hs.memWf (by rwa [Nat.zero_add]) (by omega) (fun h => absurd h (Nat.not_lt_zero k))
      scrKnown := fun k hk =>
        (Memory.read_setBufs_other hs.memWf (b := .out) (by decide) 0 _ (hk.trans_le hs.scrLenLe)).symm ▸ hs.scrKnown k hk }

/-- R28: bytes put in the script from a byte within it on, which then ends behind them. -/
theorem DataInv.script {n : Nat} {t : List Byte} (hn : n ≤ s.scrLen.toNat) (hlen : n + t.length ≤ Buf.scr.cap) :
    (s.applyAll [.buf .scr n (t.map some), .scrLen (BitVec.ofNat 16 (n + t.length))]).DataInv := by
  have hcap : n + t.length ≤ 256 := hlen
  have hlen16 : (BitVec.ofNat 16 (n + t.length)).toNat = n + t.length := Nat.mod_eq_of_lt (by omega)
  exact
    { memWf := applyAll_mem_wf hs.memWf _
      outLenLe := hs.outLenLe
      scrLenLe := hlen16.trans_le hlen
      resultLt := hs.resultLt
      outKnown := fun k hk =>
        (Memory.read_setBufs_other hs.memWf (b := .scr) (by decide) n _ (hk.trans_le hs.outLenLe)).symm ▸ hs.outKnown k hk
      scrKnown := fun k hk => Memory.isSome_setBufs hs.memWf hlen (hk.trans_eq hlen16) fun h => hs.scrKnown k (h.trans_le hn) }

/-- A command's updates keep it. -/
theorem Effect.dataInv {i : Instr} {u : List Update} (hu : Effect s i u) : (s.applyAll u).DataInv := by
  cases hu with
  | bytes _ hlen => exact DataInv.outBytes hs hlen
  | checksum hlen hv => exact DataInv.result (DataInv.outBytes hs hlen) hv
  | @address h p n v hlen hv =>
    have hhrp := DataInv.setBufs hs (b := .hrp) (by decide) (by decide) 0 (h.map some)
    have hresult : (s.applyAll [.buf .hrp 0 (h.map some), .hrpLen n, .result v]).DataInv :=
      DataInv.of_eq (DataInv.result hhrp hv) rfl rfl rfl rfl
    exact DataInv.outBytes hresult hlen
  | sha | rmd => exact DataInv.of_eq hs rfl rfl rfl rfl
  | polymod hv => exact DataInv.result hs hv
  | clear => exact { hs with scrLenLe := Nat.zero_le _, scrKnown := fun k hk => absurd hk (Nat.not_lt_zero k) }
  | append _ hlen => exact DataInv.script hs le_rfl hlen
  | @multi2 t hlen =>
    have h := DataInv.script hs (n := 0) (t := t) (Nat.zero_le _) (by rw [hlen]; decide)
    rw [hlen] at h
    exact h
  | xfer | prepend => exact DataInv.of_eq (DataInv.setBufs hs (b := .inb) (by decide) (by decide) 0 _) rfl rfl rfl rfl

end

/-! ### Completion -/

/-- R244: a completion step keeps the invariant, whatever its updates or its error. -/
theorem completed_inv {s : State} (hs : s.Inv) (hr : s.resetIn = false) {r : Except ErrCode (List Update)}
    (hu : ∀ u, r = .ok u → (s.applyAll u).DataInv) : (s.completed r).Inv := by
  have hdata : (s.completed r).DataInv := by
    cases r with
    | ok u => exact DataInv.of_eq (hu u rfl) rfl rfl rfl rfl
    | error e => exact DataInv.of_eq hs.data rfl rfl rfl rfl
  obtain ⟨hpend, -, hcount, herr⟩ := completed_status s r
  have hcode : (s.completed r).errcode.toNat ≤ 13 := by
    cases r with
    | ok u => exact Nat.zero_le _
    | error e => exact e.code_le
  have hreset : (s.completed r).resetIn = false := by
    cases r with
    | ok u =>
      obtain ⟨-, -, -, h, -⟩ := applyAll_frame s u
      exact h.trans hr
    | error e => exact hr
  exact
    { memWf := hdata.memWf
      pending := fun c hc => absurd (hpend.symm.trans hc) nofun
      idle := fun _ => hcount
      errHasCode := fun h => bne_iff_ne.1 (herr.symm.trans h)
      errcodeLe := hcode
      outLenLe := hdata.outLenLe
      scrLenLe := hdata.scrLenLe
      resultLt := hdata.resultLt
      outKnown := hdata.outKnown
      scrKnown := hdata.scrKnown
      resetQuiet := fun h => absurd (hreset.symm.trans h) nofun }

/-- R96, R244: so does the engine's step. -/
theorem engineStep_inv {s t : State} (hs : s.Inv) (hr : s.resetIn = false) (c : Word) (ht : s.engineStep c = .next t) : t.Inv := by
  unfold State.engineStep at ht
  split at ht
  · obtain rfl := Host.Outcome.next.inj ht
    exact completed_inv hs hr nofun
  · rename_i i _
    obtain ⟨r, hnext, ha⟩ := exec_answers i s
    obtain rfl := Host.Outcome.next.inj (hnext.symm.trans ht)
    refine completed_inv hs hr fun u hu => ?_
    subst hu
    cases ha with
    | ok heffect => exact heffect.dataInv hs.data

/-! ### Host steps -/

/-- The registers and fields that the invariant says nothing of. -/
theorem State.Inv.with_free {s : State} (hs : s.Inv) (haz : Bool) (inLen : BitVec 16) (hrpLen : BitVec 8) (draws : Nat)
    (host : List HostOp) (answers : List Answer) :
    State.Inv { s with haz := haz, inLen := inLen, hrpLen := hrpLen, draws := draws, host := host, answers := answers } :=
  { hs with }

/-- R38, R270: what a reset leaves meets the invariant, whatever the reset input is. -/
theorem softReset_inv (s : State) : s.softReset.Inv where
  memWf := Memory.wf_nil
  pending := nofun
  idle _ := rfl
  errHasCode := nofun
  errcodeLe := Nat.zero_le _
  outLenLe := Nat.zero_le _
  scrLenLe := Nat.zero_le _
  resultLt := (by decide : (0 : Word).toNat < 2 ^ 30)
  outKnown i h := absurd h (Nat.not_lt_zero i)
  scrKnown i h := absurd h (Nat.not_lt_zero i)
  resetQuiet _ := ⟨rfl, rfl⟩

/-- Settles O15: the reset state is what a reset leaves of it. -/
theorem resetMeetsTheInvariant : Obligations.ResetMeetsTheInvariant := softReset_inv State.reset

section
variable {s : State} (hs : s.Inv)
include hs

/-- R67, R68: a word stored in IN or HRP. -/
theorem storeWord_inv {b : Buf} (ho : b ≠ .out) (hc : b ≠ .scr) (k : Nat) (v : Word) : (s.storeWord b k v).Inv :=
  have hdata := DataInv.setBufs hs.data ho hc (4 * k) [some (Word.byte v 0), some (Word.byte v 1), some (Word.byte v 2), some (Word.byte v 3)]
  { hs with memWf := hdata.memWf, outKnown := hdata.outKnown, scrKnown := hdata.scrKnown }

/-- R243: an issue while reset is not asserted. -/
theorem issue_inv (hr : s.resetIn = false) (v : Word) : (s.issue v).Inv :=
  { hs with
    pending := fun _ hc => ⟨Option.some.inj hc, rfl, rfl, rfl⟩
    idle := nofun
    errHasCode := nofun
    errcodeLe := Nat.zero_le _
    resetQuiet := fun h => absurd (hr.symm.trans h) nofun }

/-- R23: a write of STATUS. -/
theorem writeStatus_inv (v : Word) : (s.writeStatus v).Inv :=
  { hs with
    pending := fun c hc => by
      obtain ⟨hcmd, hdone, herr, hcode⟩ := hs.pending c hc
      exact ⟨hcmd, by rw [writeStatus_done_eq, hdone, Bool.false_and], by rw [writeStatus_err_eq, herr, Bool.false_and], hcode⟩
    errHasCode := fun h => hs.errHasCode (Bool.and_eq_true _ _ ▸ h).1
    resetQuiet := fun h => by
      obtain ⟨hpend, hirq⟩ := hs.resetQuiet h
      exact ⟨hpend, by rw [writeStatus_irq_eq, hirq, Bool.false_and]⟩ }

/-- R22: a write of IE while reset is not asserted. -/
theorem setIe_inv (hr : s.resetIn = false) (ie : Bool) : State.Inv { s with ie := ie } :=
  { hs with resetQuiet := fun h => absurd (hr.symm.trans h) nofun }

/-- R65: every write of a location. -/
theorem writeLoc_inv (hr : s.resetIn = false) (l : Loc) (v : Word) : (s.writeLoc l v).Inv := by
  obtain h | ⟨-, -, h⟩ | ⟨-, -, h⟩ | ⟨-, h⟩ | ⟨-, -, h⟩ | ⟨-, -, h⟩ | ⟨-, -, h⟩ | ⟨-, -, h⟩ | ⟨-, k, -, h⟩ | ⟨-, k, -, h⟩ :=
    writeLoc_cases s l v <;> rw [h]
  · exact hs
  · exact softReset_inv s
  · exact setIe_inv hs hr _
  · exact writeStatus_inv hs v
  · exact hs.with_free true ..
  · exact issue_inv hs hr v
  · exact hs.with_free ..
  · exact hs.with_free ..
  · exact storeWord_inv hs (by decide) (by decide) k v
  · exact storeWord_inv hs (by decide) (by decide) k v

/-- R63 to R66: every access. -/
theorem access_inv (a : BusAccess) : (s.access a).Inv := by
  cases a with
  | read width off =>
    obtain ⟨ans, h⟩ := access_read s width off
    rw [h]
    exact hs.with_free ..
  | write width off v =>
    rcases Bool.eq_false_or_eq_true s.resetIn with hr | hr
    · rw [access_noAnswer s _ hr]
      exact hs.with_free ..
    · cases ht : target width off with
      | none =>
        rw [access_write_none s width off v hr ht]
        exact hs.with_free ..
      | some l =>
        obtain ⟨rfl, hl⟩ := (target_eq_some_iff width off l).1 ht
        rw [access_write_ok s off l v hr hl]
        exact (writeLoc_inv hs hr l v).with_free ..

/-- R16, R100, R270, R283: every host op. -/
theorem hostOp_inv (op : HostOp) : (s.hostOp op).Inv := by
  cases op with
  | access a => exact access_inv hs a
  | idle => exact hs.with_free ..
  | wait =>
    rw [State.hostOp]
    split
    · exact access_inv hs _
    · exact (access_inv hs _).with_free ..
  | waitIrq =>
    rw [State.hostOp]
    split <;> exact hs.with_free ..
  | rdOut => exact (access_inv hs _).with_free ..
  | resetAssert => exact softReset_inv { s with resetIn := true, draws := s.draws + 1 }
  | resetRelease =>
    rw [State.hostOp]
    split
    · exact softReset_inv { s with resetIn := false, draws := s.draws + 1 }
    · exact hs.with_free ..

/-- R16: every host step. -/
theorem hostStep_inv : s.hostStep.Inv := by
  rw [State.hostStep]
  split
  · exact hs.with_free ..
  · rename_i op rest _
    exact hostOp_inv (s := { s with host := rest }) (hs.with_free ..) op

end

/-- Settles O16: each of the three cases of a step keeps the invariant. -/
theorem everyStepKeepsTheInvariant : Obligations.EveryStepKeepsTheInvariant := by
  intro s t hs ht
  obtain ⟨-, h⟩ | ⟨c, n, -, hp, -, h⟩ | ⟨c, hr, -, -, h⟩ := step_cases s
  · obtain rfl := Host.Outcome.next.inj (h.symm.trans ht)
    exact hostStep_inv hs
  · obtain rfl := Host.Outcome.next.inj (h.symm.trans ht)
    exact hostStep_inv { hs with idle := fun hn => absurd (hp.symm.trans hn) nofun }
  · exact engineStep_inv hs hr c (h.symm.trans ht)

end Sys2Proof.Machine
end

section
/-! SUPPORT. Draws and LATENCY: with the bytes that commands read known, neither has a part in what a command does (10_state.md R33;
70_reset_and_hazards.md R285). -/

namespace Sys2Proof.Machine

open Sys2Proof

/-- The state at another draw number and another countdown. -/
def State.redrawn (s : State) (n k : Nat) : State := { s with draws := n, countdown := k }

/-- No update reads or writes them. -/
theorem applyAll_redrawn (s : State) (n k : Nat) (u : List Update) : (s.redrawn n k).applyAll u = (s.applyAll u).redrawn n k := by
  induction u generalizing s with
  | nil => rfl
  | cons x u ih =>
    have hx : (s.redrawn n k).apply x = (s.apply x).redrawn n k := by cases x <;> rfl
    have ih := ih (s.apply x)
    simpa only [State.applyAll, List.foldl_cons, hx] using ih

/-- R244: a completion step with a given answer leaves the same state but for the draw number. -/
theorem completed_redrawn (s : State) (n k : Nat) (r : Except ErrCode (List Update)) :
    (s.redrawn n k).completed r = { s.completed r with draws := n + 1 } := by
  cases r with
  | error e => rfl
  | ok u =>
    rw [completed_ok, completed_ok, applyAll_redrawn]
    rfl

/-- R33: bytes that are known are seen alike. -/
theorem bufBytes_redrawn (s : State) (n k : Nat) {b : Buf} {len : Nat} (hk : ∀ i, i < len → (s.mem.read (b.base + i)).isSome = true) :
    (s.redrawn n k).bufBytes b len = s.bufBytes b len := by
  refine List.map_congr_left fun i hi => ?_
  obtain ⟨v, hv⟩ := Option.isSome_iff_exists.1 (hk i (List.mem_range.1 hi))
  rw [byteAt_known s b i v hv]
  exact byteAt_known (s.redrawn n k) b i v hv

section
variable {s : State} (hs : s.InputsKnown) (n k : Nat)
include hs

/-- R93: `InBytes()` gives the same. -/
theorem withIn_redrawn (f : List Byte → Except ErrCode (List Update)) : (s.redrawn n k).withIn f = s.withIn f := by
  obtain ⟨hin, -, -⟩ := hs
  by_cases h : s.InOk
  · have hinput : (s.redrawn n k).input = s.input := bufBytes_redrawn s n k fun i hi => hin i hi (hi.trans_le h)
    rw [withIn_ok s h, withIn_ok (s.redrawn n k) h, hinput]
  · rw [withIn_error s h, withIn_error (s.redrawn n k) h]

/-- R176: `HrpBytes()` gives the same. -/
theorem withHrp_redrawn (f : List Byte → Except ErrCode (List Update)) : (s.redrawn n k).withHrp f = s.withHrp f := by
  obtain ⟨-, hhrp, -⟩ := hs
  by_cases hlen : s.hrpLen.toNat ≤ Config.hrpCap
  · have hinput : (s.redrawn n k).hrpInput = s.hrpInput := bufBytes_redrawn s n k fun i hi => hhrp i hi (hi.trans_le hlen)
    by_cases h : s.HrpInOk
    · have h' : (s.redrawn n k).HrpInOk := by
        rw [hrpInOk_iff] at h ⊢
        rwa [hinput]
      rw [withHrp_ok s h, withHrp_ok _ h', hinput]
    · have h' : ¬ (s.redrawn n k).HrpInOk := by
        rw [hrpInOk_iff] at h ⊢
        rwa [hinput]
      rw [withHrp_error s h, withHrp_error _ h']
  · have h : ¬ s.HrpInOk := fun ⟨_, hle, _⟩ => hlen hle
    have h' : ¬ (s.redrawn n k).HrpInOk := fun ⟨_, hle, _⟩ => hlen hle
    rw [withHrp_error s h, withHrp_error _ h']

/-- R33: with what a command reads known, its answer is the same at every draw number. The cases are grouped by their operands. -/
theorem exec_answer_redrawn (i : Instr) :
    ∃ r, exec i s = s.complete r ∧ exec i (s.redrawn n k) = (s.redrawn n k).complete r := by
  cases i with
  | scrClear | shaInit | rmdInit | scrOp | xfer => exact ⟨_, rfl, rfl⟩
  | scrHash =>
    have hscr : (s.redrawn n k).scrBytes = s.scrBytes := by
      obtain ⟨-, -, hscr⟩ := hs
      exact bufBytes_redrawn s n k hscr
    exact ⟨_, rfl, congrArg (fun m => (s.redrawn n k).complete (.ok (outBytes (sha256 m)))) hscr⟩
  | b32Hrpexp => exact ⟨_, rfl, congrArg (s.redrawn n k).complete (withHrp_redrawn hs n k _)⟩
  | b32Checksum | b32Enc =>
    exact ⟨_, rfl, congrArg (s.redrawn n k).complete
      ((withIn_redrawn hs n k _).trans (congrArg s.withIn (funext fun m => withHrp_redrawn hs n k _)))⟩
  | sha256 | rmd160 | hash160 | sha256d | checksum4 | shaBlock | rmdBlock | b58Enc | b58Dec | b58chkEnc | b58chkDec | b32Towords
  | b32Fromwords | b32Polymod | b32Dec | scrPush | scrMulti2 | prepend =>
    exact ⟨_, rfl, congrArg (s.redrawn n k).complete (withIn_redrawn hs n k _)⟩

/-- R33: with what it reads known, a command does the same at every draw number. -/
theorem exec_redrawn {i : Instr} {t : State} (h : exec i s = .next t) : exec i (s.redrawn n k) = .next { t with draws := n + 1 } := by
  obtain ⟨r, hr, hr'⟩ := exec_answer_redrawn hs n k i
  obtain rfl := Host.Outcome.next.inj (hr.symm.trans h)
  rw [hr', State.complete, completed_redrawn]

/-- R285: so does the completion step of any word. -/
theorem engineStep_redrawn {c : Word} {t : State} (h : s.engineStep c = .next t) :
    (s.redrawn n k).engineStep c = .next { t with draws := n + 1 } := by
  unfold State.engineStep at h ⊢
  cases hd : decode c with
  | error e =>
    rw [hd] at h
    obtain rfl := Host.Outcome.next.inj h
    exact congrArg Host.Outcome.next (completed_redrawn s n k _)
  | ok i =>
    rw [hd] at h
    exact exec_redrawn hs n k h

end

/-- Settles O14: the draw number counts on from where it is put, and that is all. -/
theorem knownInputsLeaveNothingToDraws : Obligations.KnownInputsLeaveNothingToDraws :=
  fun _ _ _ n k hs h => exec_redrawn hs n k h

/-- R244, R285: with no host op placed, the counted host steps draw, and do nothing else. -/
theorem run_idle (s : State) (c : Word) (hr : s.resetIn = false) (hp : s.pend = some c) (hh : s.host = []) (n : Nat) :
    Sys2Proof.core.run n { s with countdown := n } = .next (s.redrawn (s.draws + n) 0) := by
  induction n generalizing s with
  | zero => rfl
  | succ n ih =>
    have hstep : step { s with countdown := n + 1 } = .next { s with countdown := n, draws := s.draws + 1 } := by
      rw [step_waiting { s with countdown := n + 1 } c n hr hp rfl, State.hostStep]
      simp only [hh]
      rfl
    have hrest := ih { s with draws := s.draws + 1 } hr hp hh
    rw [run_succ _ _ n hstep, hrest]
    simp only [State.redrawn, Nat.add_assoc, Nat.add_comm 1 n]

/-- Settles O13: the host steps before the completion only change the draw number, which the completion does not read. -/
theorem resultDoesNotDependOnLatency : Obligations.ResultDoesNotDependOnLatency := by
  intro s c n hr hp hh hs
  obtain ⟨r, hnow⟩ := engineStep_completed (s.redrawn s.draws 0) c
  have hlater : (s.redrawn (s.draws + n) 0).engineStep c = .next { (s.redrawn s.draws 0).completed r with draws := s.draws + n + 1 } :=
    engineStep_redrawn (s := s.redrawn s.draws 0) hs (s.draws + n) 0 hnow
  have hdue : ∀ d, step (s.redrawn d 0) = (s.redrawn d 0).engineStep c := fun d => step_due (s.redrawn d 0) c hr hp rfl
  have hrun := run_add _ _ n 1 (run_idle s c hr hp hh n)
  exact ⟨_, _, hrun.trans (run_succ _ _ 0 ((hdue _).trans hlater)), run_succ _ _ 0 ((hdue s.draws).trans hnow), rfl⟩

end Sys2Proof.Machine
end

section
/-! SUPPORT. Single steps: whose turn it is, what a running command is safe from, HAZ, and reset while a command runs (00_scope.md R16;
20_memory.md R73, R74; 70_reset_and_hazards.md R272, R280, R287). -/

namespace Sys2Proof.Machine

open Sys2Proof

/-- R73: a host step makes the next op. -/
theorem hostStep_cons {s : State} {op : HostOp} {rest : List HostOp} (hh : s.host = op :: rest) :
    s.hostStep = State.hostOp { s with host := rest } op := by
  rw [State.hostStep, hh]

/-- R16: with nothing placed a host step only draws. -/
theorem hostStep_nil {s : State} (hh : s.host = []) : s.hostStep = s.tick := by
  rw [State.hostStep, hh]

/-- R244: the completion step of a word that decodes is its command. -/
theorem engineStep_decoded {c : Word} {i : Instr} (hd : decode c = .ok i) (s : State) : s.engineStep c = exec i s := by
  rw [State.engineStep, hd]

/-- Settles O4: the completion step is due, and the word decodes. -/
theorem stepRunsThePendingCommand : Obligations.StepRunsThePendingCommand :=
  fun s c _ hr hp hn hd => (step_due s c hr hp hn).trans (engineStep_decoded hd s)

/-- Settles O5: the step is the host's, and the access is the op it makes. -/
theorem stepMakesTheHostsAccess : Obligations.StepMakesTheHostsAccess := by
  intro s a rest hh
  refine ⟨fun hidle => ?_, fun n c hr hp hn => ?_⟩
  · have hstep : step s = .next s.hostStep := hidle.elim (step_reset s) (step_idle s)
    rw [hstep, hostStep_cons hh]
    rfl
  · rw [step_waiting s c n hr hp hn, hostStep_cons (s := { s with countdown := n }) hh]
    rfl

/-- R74: while a command runs, a host step whose op resets nothing leaves what is frozen. -/
theorem hostStep_frozen_of_first {s : State} (hb : s.busy = true) (hops : ∀ op rest, s.host = op :: rest → op.resets = false) :
    s.hostStep.frozen = s.frozen := by
  cases hh : s.host with
  | nil =>
    rw [hostStep_nil hh]
    rfl
  | cons op rest =>
    rw [hostStep_cons hh]
    exact hostOp_frozen (s := { s with host := rest }) hb op (hops op rest hh)

/-- Settles O12: the step is a host step that resets nothing. -/
theorem runningCommandsStateIsFrozen : Obligations.RunningCommandsStateIsFrozen := by
  intro s t c n hr hp hn hops ht
  have hb : s.busy = true := by rw [State.busy, hp]; rfl
  obtain rfl := Host.Outcome.next.inj ((step_waiting s c n hr hp hn).symm.trans ht)
  exact eq_of_frozen_eq (hostStep_frozen_of_first (s := { s with countdown := n }) hb hops)

/-! ### HAZ -/

/-- R287, R270, R271: the host op can let HAZ fall: it resets the block or writes 1 to HAZ. -/
def HostOp.LowersHaz (op : HostOp) : Prop := op.resets = true ∨ ∃ v : Word, op = wr 0x00C v ∧ v.getLsbD 3 = true

/-- R280: the host op, next in state `s`, can let HAZ rise: it writes input-class state while a command runs. -/
def HostOp.RaisesHaz (op : HostOp) (s : State) : Prop :=
  s.busy = true ∧ ∃ off v l, op = wr off v ∧ locate off = some l ∧ l.cls = .input

/-- R280, R287: HAZ keeps its value from `s` to `t`, or the op `op` accounts for the value it has then. -/
def HazAccounted (s t : State) (op : HostOp) : Prop :=
  t.haz = s.haz ∨ (t.haz = false ∧ op.LowersHaz) ∨ (t.haz = true ∧ op.RaisesHaz s)

/-- R280, R287: a write of a location. -/
theorem writeLoc_haz (s : State) {l : Loc} (hl : locate l.off = some l) (v : Word) : HazAccounted s (s.writeLoc l v) (wr l.off v) := by
  obtain h | ⟨rfl, hv, h⟩ | ⟨-, -, h⟩ | ⟨rfl, h⟩ | ⟨hb, hc, h⟩ | ⟨-, -, h⟩ | ⟨-, -, h⟩ | ⟨-, -, h⟩ | ⟨-, k, -, h⟩ | ⟨-, k, -, h⟩ :=
    writeLoc_cases s l v <;> rw [h]
  case inr.inl => exact .inr (.inl ⟨rfl, .inl hv⟩)
  case inr.inr.inr.inl =>
    cases hv : v.getLsbD 3 with
    | true => exact .inr (.inl ⟨by rw [writeStatus_haz_eq, hv, Bool.not_true, Bool.and_false], .inr ⟨v, rfl, hv⟩⟩)
    | false => exact .inl (by rw [writeStatus_haz_eq, hv, Bool.not_false, Bool.and_true])
  case inr.inr.inr.inr.inl => exact .inr (.inr ⟨rfl, hb, l.off, v, l, rfl, hl, hc⟩)
  all_goals exact .inl rfl

/-- R280, R287: an access. -/
theorem access_haz (s : State) (a : BusAccess) : HazAccounted s (s.access a) (.access a) := by
  cases a with
  | read width off =>
    obtain ⟨ans, h⟩ := access_read s width off
    exact .inl (by rw [h])
  | write width off v =>
    rcases Bool.eq_false_or_eq_true s.resetIn with hr | hr
    · exact .inl (by rw [access_noAnswer s _ hr])
    · cases ht : target width off with
      | none => exact .inl (by rw [access_write_none s width off v hr ht])
      | some l =>
        obtain ⟨rfl, hl⟩ := (target_eq_some_iff width off l).1 ht
        obtain rfl := locate_off off l hl
        rw [access_write_ok s l.off l v hr hl]
        exact writeLoc_haz s hl v

/-- R280, R287: a host op. -/
theorem hostOp_haz (s : State) (op : HostOp) : HazAccounted s (s.hostOp op) op := by
  have hread (off : Nat) : (s.access (.read .w32 off)).haz = s.haz := by
    obtain ⟨ans, h⟩ := access_read s .w32 off
    rw [h]
  cases op with
  | access a => exact access_haz s a
  | idle => exact .inl rfl
  | wait =>
    rw [State.hostOp]
    split <;> exact .inl (hread 0x00C)
  | waitIrq =>
    rw [State.hostOp]
    split <;> exact .inl rfl
  | rdOut => exact .inl (hread 0x018)
  | resetAssert => exact .inr (.inl ⟨rfl, .inl rfl⟩)
  | resetRelease =>
    rw [State.hostOp]
    split
    · exact .inr (.inl ⟨rfl, .inl rfl⟩)
    · exact .inl rfl

/-- R280, R287: a host step. -/
theorem hostStep_haz (s : State) : s.hostStep.haz = s.haz ∨ ∃ op rest, s.host = op :: rest ∧ HazAccounted s s.hostStep op := by
  cases hh : s.host with
  | nil => exact .inl (by rw [hostStep_nil hh, tick_haz_eq])
  | cons op rest =>
    rw [hostStep_cons hh]
    exact .inr ⟨op, rest, rfl, hostOp_haz { s with host := rest } op⟩

/-- R287: a completion step keeps HAZ. -/
theorem completed_haz_eq (s : State) (r : Except ErrCode (List Update)) : (s.completed r).haz = s.haz := by
  cases r with
  | error e => rfl
  | ok u =>
    obtain ⟨-, h, -⟩ := applyAll_frame s u
    exact h

/-- R280, R287: a step. -/
theorem step_haz {s t : State} (ht : step s = .next t) : t.haz = s.haz ∨ ∃ op rest, s.host = op :: rest ∧ HazAccounted s t op := by
  obtain ⟨-, h⟩ | ⟨c, n, -, -, -, h⟩ | ⟨c, -, -, -, h⟩ := step_cases s
  · obtain rfl := Host.Outcome.next.inj (h.symm.trans ht)
    exact hostStep_haz s
  · obtain rfl := Host.Outcome.next.inj (h.symm.trans ht)
    exact hostStep_haz { s with countdown := n }
  · obtain ⟨r, hc⟩ := engineStep_completed s c
    obtain rfl := Host.Outcome.next.inj (hc.symm.trans (h.symm.trans ht))
    exact .inl (completed_haz_eq s r)

/-- Settles O20: a value that HAZ did not have is accounted for by the op of the step. -/
theorem hazIsSticky : Obligations.HazIsSticky := by
  intro s t ht
  refine ⟨fun hs hlow => ?_, fun hs hhigh => ?_⟩
  · obtain h | ⟨op, rest, hh, h | ⟨-, hop⟩ | ⟨h, -⟩⟩ := step_haz ht
    · cases hs.symm.trans (h.symm.trans hlow)
    · cases hs.symm.trans (h.symm.trans hlow)
    · exact ⟨op, rest, hh, hop.imp_right .inr⟩
    · cases h.symm.trans hlow
  · obtain h | ⟨op, rest, hh, h | ⟨h, -⟩ | ⟨-, hb, off, v, l, rfl, hl, hc⟩⟩ := step_haz ht
    · cases hs.symm.trans (h.symm.trans hhigh)
    · cases hs.symm.trans (h.symm.trans hhigh)
    · cases h.symm.trans hhigh
    · exact ⟨hb, off, v, rest, l, hh, hl, hc⟩

/-! ### Reset while a command runs -/

/-- Settles O22: both ops leave the reset state, in which no command is pending. -/
theorem resetAbortsTheRunningCommand : Obligations.ResetAbortsTheRunningCommand := by
  intro s c n op rest hr hp hn hh hop
  have hstep := step_waiting s c n hr hp hn
  rw [hostStep_cons (s := { s with countdown := n }) hh] at hstep
  obtain rfl | ⟨v, hv, rfl⟩ := hop
  · exact ⟨_, hstep, (atReset_softReset s).with_outside .., rfl, step_reset _ rfl⟩
  · have haccess := access_ctrl_srst { s with countdown := n, host := rest } v hr hv
    rw [wr, State.hostOp, haccess] at hstep
    exact ⟨_, hstep, (atReset_softReset s).with_outside .., rfl, step_idle _ rfl⟩

end Sys2Proof.Machine
end

section
/-! SUPPORT. Reads and writes of the register window while no command runs, words of a buffer, and physical accesses (10_state.md section 1;
20_memory.md sections 1 and 3). -/

namespace Sys2Proof.Machine

open Sys2Proof

/-- Settles O24: in every case of an access, a read only gets its answer. -/
theorem readsHaveNoSideEffect : Obligations.ReadsHaveNoSideEffect := access_read

/-- While no command runs, a read is answered with the value of what stands at its offset, whatever its class. -/
theorem reads_value_idle (s : State) (off : Nat) (l : Loc) (hr : s.resetIn = false) (hb : s.busy = false) (hl : locate off = some l) :
    Reads s off (s.value l) := by
  rw [Reads, access_read_some s off l hr hl, readLoc_exact s l (.inl hb)]

/-- R22: CTRL reads as its IE bit. -/
theorem ctrlWord_eq (s : State) : s.ctrlWord = if s.ie then 1 else 0 := by
  rw [State.ctrlWord]
  cases s.ie <;> decide

/-- R67: a byte of a buffer that is known is in its lane. -/
theorem lane_known (s : State) (b : Buf) (i : Nat) (v : Byte) (hi : i < b.cap) (h : s.mem.read (b.base + i) = some v) : s.lane b i = v := by
  rw [State.lane, if_pos hi, byteAt_known s b i v h]

/-- R67: a word of a buffer whose four bytes are known. -/
theorem bufWord_known (s : State) (b : Buf) (k : Nat) (b0 b1 b2 b3 : Byte) (hk : 4 * k + 3 < b.cap)
    (h : s.mem.read (b.base + 4 * k) = some b0 ∧ s.mem.read (b.base + 4 * k + 1) = some b1 ∧
      s.mem.read (b.base + 4 * k + 2) = some b2 ∧ s.mem.read (b.base + 4 * k + 3) = some b3) : s.bufWord b k = b3 ++ b2 ++ b1 ++ b0 := by
  obtain ⟨h0, h1, h2, h3⟩ := h
  rw [State.bufWord, lane_known s b _ b0 (by omega) h0, lane_known s b _ b1 (by omega) h1, lane_known s b _ b2 (by omega) h2,
    lane_known s b _ b3 hk h3, le32]

/-- Settles O25: what stands at each offset, and its value. -/
theorem registersReadTheirContents : Obligations.RegistersReadTheirContents := by
  intro s hr
  have hreg (off : Nat) (l : Loc) (hl : locate off = some l) (hc : l.cls ≠ .output) := reads_value s off l hr hl hc
  have hidle (hb : s.busy = false) (off : Nat) (l : Loc) (hl : locate off = some l) := reads_value_idle s off l hr hb hl
  refine ⟨hreg 0x000 .id (by decide) (by decide), hreg 0x004 .hwver (by decide) (by decide), ?ctrl, hreg 0x010 .cmd (by decide) (by decide),
    hreg 0x014 .inLen (by decide) (by decide), hreg 0x01C .hrpLen (by decide) (by decide), fun hb => ?outputs, fun k b0 b1 b2 b3 => ?words⟩
  case ctrl => exact ctrlWord_eq s ▸ hreg 0x008 .ctrl (by decide) (by decide)
  case outputs =>
    exact ⟨hidle hb 0x018 .outLen (by decide), hidle hb 0x020 .scrLen (by decide), hidle hb 0x024 .result (by decide),
      hidle hb _ _ (locate_shaH 0 (by decide)), hidle hb _ _ (locate_shaH 1 (by decide)), hidle hb _ _ (locate_shaH 2 (by decide)),
      hidle hb _ _ (locate_shaH 3 (by decide)), hidle hb _ _ (locate_shaH 4 (by decide)), hidle hb _ _ (locate_shaH 5 (by decide)),
      hidle hb _ _ (locate_shaH 6 (by decide)), hidle hb _ _ (locate_shaH 7 (by decide)), hidle hb _ _ (locate_rmdH 0 (by decide)),
      hidle hb _ _ (locate_rmdH 1 (by decide)), hidle hb _ _ (locate_rmdH 2 (by decide)), hidle hb _ _ (locate_rmdH 3 (by decide)),
      hidle hb _ _ (locate_rmdH 4 (by decide))⟩
  case words =>
    intro holds
    have hcap : Buf.inb.cap = 256 ∧ Buf.hrp.cap = 83 ∧ Buf.out.cap = 512 ∧ Buf.scr.cap = 256 := ⟨rfl, rfl, rfl, rfl⟩
    have hword (b : Buf) (hk : 4 * k + 3 < b.cap) (h : holds b) : s.value (.buf b k) = b3 ++ b2 ++ b1 ++ b0 :=
      bufWord_known s b k b0 b1 b2 b3 hk h
    have hloc (b : Buf) (hk : 4 * k + 3 < b.cap) : locate (b.base + 4 * k) = some (.buf b k) := locate_buf b k (by omega)
    refine ⟨fun hk h => ?_, fun hk h => ?_, fun hb hk h => ?_, fun hb hk h => ?_⟩
    · exact hword .inb (by omega) h ▸ hreg _ _ (hloc .inb (by omega)) nofun
    · exact hword .hrp (by omega) h ▸ hreg _ _ (hloc .hrp (by omega)) nofun
    · exact hword .out (by omega) h ▸ hidle hb _ _ (hloc .out (by omega))
    · exact hword .scr (by omega) h ▸ hidle hb _ _ (hloc .scr (by omega))

/-- R23: the bits of the word that STATUS reads as. -/
theorem statusWord_bits (s : State) : s.statusWord.getLsbD 0 = s.busy ∧ s.statusWord.getLsbD 1 = s.done ∧
    s.statusWord.getLsbD 2 = s.err ∧ s.statusWord.getLsbD 3 = s.haz ∧ s.statusWord.extractLsb' 4 4 = 0 ∧
    s.statusWord.extractLsb' 8 8 = s.errcode ∧ s.statusWord.extractLsb' 16 16 = 0 := by
  rw [State.statusWord]
  refine ⟨?busy, ?done, ?err, ?haz, ?zeros, ?errcode, ?high⟩ <;> grind

/-- R64: STATUS reads as its word in every state. -/
theorem reads_status (s : State) (hr : s.resetIn = false) : Reads s 0x00C s.statusWord :=
  reads_value s 0x00C .status hr (by decide) (by decide)

/-- Settles O26: the word that STATUS reads as, bit by bit. -/
theorem statusReadsItsBits : Obligations.StatusReadsItsBits := fun s hr => ⟨s.statusWord, reads_status s hr, statusWord_bits s⟩

/-- Settles O30: the two registers are of the input class, and no command runs. -/
theorem lengthRegistersTakeTheirLowBits : Obligations.LengthRegistersTakeTheirLowBits := by
  intro s v hr hb
  have hwrite (off : Nat) (l : Loc) (hl : locate off = some l) :
      s.access (.write .w32 off v) = { s.storeLoc l v with answers := .ok :: s.answers, draws := s.draws + 1 } := by
    rw [access_write_ok s off l v hr hl, writeLoc_stored s l v (.inl hb)]
  exact ⟨hwrite 0x014 .inLen (by decide), hwrite 0x01C .hrpLen (by decide)⟩

/-- R11: a word is put together from its bytes. -/
theorem le32_bytes (v : Word) : le32 (Word.byte v 0) (Word.byte v 1) (Word.byte v 2) (Word.byte v 3) = v := by
  apply BitVec.eq_of_getLsbD_eq
  intro j hj
  simp only [le32, Word.byte]
  grind

/-- R67: once a word's bytes were written at a word of a buffer, the word reads as that. -/
theorem bufWord_of_wrote (s : State) (m : Memory) (b : Buf) (k : Nat) (v : Word) (hk : 4 * k + 3 < b.cap)
    (hw : Wrote m s.mem b (4 * k) (le32bytes v)) : s.bufWord b k = v := by
  have hlane : ∀ j < 4, s.lane b (4 * k + j) = Word.byte v j := by
    intro j hj
    have hbyte := byteAt_of_wrote s m b (4 * k) j (le32bytes v) hw hj
    rw [State.lane, if_pos (by omega), hbyte]
    rcases (by omega : j = 0 ∨ j = 1 ∨ j = 2 ∨ j = 3) with rfl | rfl | rfl | rfl <;> rfl
  have h0 := hlane 0 (by decide)
  rw [Nat.add_zero] at h0
  rw [State.bufWord, h0, hlane 1 (by decide), hlane 2 (by decide), hlane 3 (by decide), le32_bytes]

/-- R67: a word stored in a buffer is written there. -/
theorem storeWord_wrote (s : State) (b : Buf) (k : Nat) (v : Word) (hk : 4 * k + 3 < b.cap) :
    Wrote s.mem (s.storeWord b k v).mem b (4 * k) (le32bytes v) :=
  wrote_setBufs s.mem b (4 * k) (le32bytes v) (show 4 * k + 4 ≤ b.cap by omega)

/-- R65, R67: a write of a word of IN or HRP while no command runs. -/
theorem access_storeWord (s : State) (b : Buf) (ho : b ≠ .out) (hc : b ≠ .scr) (k : Nat) (v : Word) (hr : s.resetIn = false)
    (hb : s.busy = false) (hk : 4 * k < b.cap) :
    s.access (.write .w32 (b.base + 4 * k) v) = { s.storeWord b k v with answers := .ok :: s.answers, draws := s.draws + 1 } := by
  rw [access_write_ok s _ _ v hr (locate_buf b k hk), writeLoc_stored s _ v (.inl hb)]
  cases b with
  | inb | hrp => rfl
  | out => exact absurd rfl ho
  | scr => exact absurd rfl hc

/-- R67: such a word reads back. -/
theorem reads_stored_word (s : State) (b : Buf) (ho : b ≠ .out) (hc : b ≠ .scr) (k : Nat) (v : Word) (hr : s.resetIn = false)
    (hb : s.busy = false) (hk : 4 * k + 3 < b.cap) : ∃ m, s.access (.write .w32 (b.base + 4 * k) v) =
        { s with mem := m, answers := .ok :: s.answers, draws := s.draws + 1 } ∧ Wrote s.mem m b (4 * k) (le32bytes v) ∧
      Reads (s.access (.write .w32 (b.base + 4 * k) v)) (b.base + 4 * k) v := by
  have hwrote := storeWord_wrote s b k v hk
  have haccess := access_storeWord s b ho hc k v hr hb (by omega)
  refine ⟨_, haccess, hwrote, ?_⟩
  rw [haccess]
  have hread := reads_value_idle { s.storeWord b k v with answers := .ok :: s.answers, draws := s.draws + 1 } _ _ hr hb
    (locate_buf b k (by omega))
  have hvalue := bufWord_of_wrote { s.storeWord b k v with answers := .ok :: s.answers, draws := s.draws + 1 } s.mem b k v hk hwrote
  rw [State.value, hvalue] at hread
  exact hread

/-- Settles O31: the words asked for are those that lie wholly in the buffer. -/
theorem bufferWordWrittenReadsBack : Obligations.BufferWordWrittenReadsBack := by
  intro s k v hr hb
  exact ⟨fun hk => reads_stored_word s .inb (by decide) (by decide) k v hr hb (show 4 * k + 3 < 256 by omega),
    fun hk => reads_stored_word s .hrp (by decide) (by decide) k v hr hb (show 4 * k + 3 < 83 by omega)⟩

/-- R60: an address reaches the window exactly from BASE on. -/
theorem windowOffset_eq_none_iff (a : Nat) : windowOffset a = none ↔ a < Config.base := by
  rw [windowOffset]
  split <;> simp <;> omega

/-- Settles O35: both accesses go by the window offset. -/
theorem physicalAccessIsTheWindowAccess : Obligations.PhysicalAccessIsTheWindowAccess := by
  refine ⟨fun off v => ?_, fun a v => ?_⟩
  · have hoff : windowOffset (Config.base + off) = some off := by
      rw [windowOffset, if_pos (Nat.le_add_right _ _), Nat.add_sub_cancel_left]
    exact ⟨congrArg (Option.map rd) hoff, congrArg (Option.map (wr · v)) hoff⟩
  · rw [memRead, memWrite, Option.map_eq_none_iff, Option.map_eq_none_iff, windowOffset_eq_none_iff]
    exact ⟨Iff.rfl, Iff.rfl⟩

end Sys2Proof.Machine
end

section
/-! SUPPORT. The script serializer and the transfer commands (43_script.md; 44_transfer.md). -/

namespace Sys2Proof.Machine

open Sys2Proof

/-- Settles O55: neither command can fail. -/
theorem scriptIsClearedAndHashed : Obligations.ScriptIsClearedAndHashed := fun s =>
  ⟨rfl, completesWithOutput_of .scrHash s _ (by rw [sha256_length]; decide) rfl⟩

/-! ### Appending to the script -/

/-- R210: the completion step of a command that appends to the script. -/
theorem completed_appendScript (s : State) (t : List Byte) : s.completed (.ok (s.appendScript t)) =
    { s.okWith (s.mem.setBufs .scr s.scrLen.toNat (t.map some)) with scrLen := BitVec.ofNat 16 (s.scrLen.toNat + t.length) } := rfl

/-- R210: an append that fits. -/
theorem exec_appendScript {i : Instr} {s : State} {t : List Byte} (h : exec i s = s.complete (.ok (s.appendScript t)))
    (hfit : s.scrLen.toNat + t.length ≤ 256) :
    ∃ m, exec i s = .next { s.okWith m with scrLen := BitVec.ofNat 16 (s.scrLen.toNat + t.length) } ∧
      Wrote s.mem m .scr s.scrLen.toNat t :=
  ⟨_, by rw [h, State.complete, completed_appendScript], wrote_setBufs _ _ _ _ hfit⟩

/-- R211: a push is one byte longer than its data. -/
@[simp] theorem pushBytes_length (d : List Byte) : (pushBytes d).length = 1 + d.length := by
  rw [pushBytes, List.length_cons, Nat.add_comm]

/-- R214: a push of data that a push can hold. -/
theorem exec_scrPush {s : State} (hlen : s.inLen.toNat ≤ 75) : exec .scrPush s = s.complete
    (if s.scrLen.toNat + 1 + s.inLen.toNat > 256 then .error .lengthRange else .ok (s.appendScript (pushBytes s.input))) := by
  rw [exec_of_withIn (i := .scrPush) rfl (hlen.trans (by decide)), if_neg (by rw [input_length]; exact Nat.not_lt.2 hlen), input_length]
  rfl

/-- R214: a push that fits. -/
theorem exec_scrPush_fits {s : State} (hlen : s.inLen.toNat ≤ 75) (hfit : s.scrLen.toNat + 1 + s.inLen.toNat ≤ 256) :
    exec .scrPush s = s.complete (.ok (s.appendScript (pushBytes s.input))) := by
  rw [exec_scrPush hlen, if_neg (by omega)]

/-- R215: an opcode that fits. -/
theorem exec_scrOp_fits {s : State} (b : Byte) (hfit : s.scrLen.toNat + 1 ≤ 256) :
    exec (.scrOp b) s = s.complete (.ok (s.appendScript [b])) :=
  congrArg s.complete (if_neg (Nat.not_lt.2 hfit))

/-- Settles O56: the data's own length is checked before the script's. -/
theorem scriptGrowsByAppending : Obligations.ScriptGrowsByAppending := by
  intro s b
  refine ⟨fun hlen hfit => ?push, fun hlen hin => ?tooLong, fun hlen hfit => ?pushFull, fun hfit => ?op, fun hfit => ?opFull⟩
  case push =>
    have h := exec_appendScript (exec_scrPush_fits hlen hfit) (by rw [pushBytes_length, input_length]; omega)
    rw [pushBytes_length, input_length, ← Nat.add_assoc, pushBytes, input_length] at h
    exact h
  case tooLong =>
    exact failsWith_of_withIn (i := .scrPush) rfl hin (if_pos (by rw [input_length]; exact hlen))
  case pushFull => exact failsWith_of _ s _ (by rw [exec_scrPush hlen, if_pos hfit])
  case op => exact exec_appendScript (exec_scrOp_fits b hfit) hfit
  case opFull => exact failsWith_of _ s _ (congrArg s.complete (if_pos hfit))

/-! ### The two-key script -/

/-- R217: what `SCR_MULTI2` answers of 66 bytes of IN. -/
theorem exec_scrMulti2 {s : State} (hlen : s.inLen.toNat = 66) : exec .scrMulti2 s = s.complete
    (if ¬ keyPrefixOk (s.byteAt .inb 0) ∨ ¬ keyPrefixOk (s.byteAt .inb 33) then .error .invalidKeyPrefix
      else .ok [.buf .scr 0 ((multi2Script s.input).map some), .scrLen 71]) := by
  rw [exec_of_withIn (i := .scrMulti2) rfl (by rw [State.InOk, hlen]; decide), if_neg (by rw [input_length]; exact not_not.2 hlen),
    input_getD s 0 (by omega), input_getD s 33 (by omega)]

/-- R217: the script of two keys has 71 bytes. -/
theorem multi2Script_length {m : List Byte} (hlen : m.length = 66) : (multi2Script m).length = 71 := by
  simp [multi2Script, hlen]

/-- R217: the completion step of `SCR_MULTI2`. -/
theorem exec_scrMulti2_ok {s : State} (hlen : s.inLen.toNat = 66) (h1 : keyPrefixOk (s.byteAt .inb 0) = true)
    (h2 : keyPrefixOk (s.byteAt .inb 33) = true) :
    ∃ m, exec .scrMulti2 s = .next { s.okWith m with scrLen := 71 } ∧ Wrote s.mem m .scr 0 (multi2Script s.input) := by
  refine ⟨s.mem.setBufs .scr 0 ((multi2Script s.input).map some), ?_, wrote_setBufs _ _ _ _ ?_⟩
  · rw [exec_scrMulti2 hlen, if_neg (by simp [h1, h2])]
    rfl
  · rw [multi2Script_length (by rw [input_length, hlen])]
    decide

/-- Settles O57: the length of the two keys is checked before their prefixes. -/
theorem twoKeyScriptReplacesTheScript : Obligations.TwoKeyScriptReplacesTheScript := by
  intro s hin good
  have hgood (k : Nat) : keyPrefixOk (s.byteAt .inb k) = true ↔ good k := keyPrefixOk_iff _
  refine ⟨fun hlen h1 h2 => ?script, fun hlen => ?length, fun hlen hbad => ?pfx⟩
  case script =>
    have h := exec_scrMulti2_ok hlen ((hgood 0).2 h1) ((hgood 33).2 h2)
    rw [multi2Script, List.take_of_length_le (l := s.input.drop 33) (by rw [List.length_drop, input_length]; omega)] at h
    exact h
  case length => exact failsWith_of_withIn (i := .scrMulti2) rfl hin (if_pos (by rwa [input_length]))
  case pfx =>
    exact failsWith_of _ s _ (by rw [exec_scrMulti2 hlen, if_pos (by rwa [hgood, hgood, ← not_and_or])])

/-! ### The script that a sequence of commands leaves -/

/-- R100: an input that IN holds is what a command then sees. -/
theorem loaded_input (s : State) {m : List Byte} (hlen : m.length ≤ 256) : (s.loaded m).input = m := by
  have hin : (s.loaded m).inLen.toNat = m.length := by
    rw [State.loaded, BitVec.toNat_ofNat]
    exact Nat.mod_eq_of_lt (by omega)
  have hw : Wrote s.mem (s.loaded m).mem .inb 0 m := wrote_setBufs s.mem .inb 0 m (by rwa [Nat.zero_add])
  refine List.ext_getElem (by rw [input_length, hin]) fun k _ hk => ?_
  have hbyte := byteAt_of_wrote (s.loaded m) s.mem .inb 0 k m hw hk
  rw [Nat.zero_add] at hbyte
  rw [← hbyte, ← input_getD _ k (by omega), List.getD_eq_getElem]

/-- R100: and IN_LEN is its length. -/
theorem loaded_inLen (s : State) {m : List Byte} (hlen : m.length ≤ 256) : (s.loaded m).inLen.toNat = m.length := by
  rw [← input_length, loaded_input s hlen]

/-- A command of a sequence that takes what IN holds. -/
theorem commands_cons {s t : State} {i : Instr} (h : exec i s = .next t) (rest : List (Option (List Byte) × Instr)) :
    s.commands ((none, i) :: rest) = t.commands rest := by
  rw [State.commands, h]

/-- A command of a sequence whose input is loaded before it. -/
theorem commands_cons_loaded {s t : State} {m : List Byte} {i : Instr} (h : exec i (s.loaded m) = .next t)
    (rest : List (Option (List Byte) × Instr)) : s.commands ((some m, i) :: rest) = t.commands rest := by
  rw [State.commands, h]

/-- R210: no error is held, and the script is `t`, the bytes of SCR past it those of `m`. -/
structure ScriptIs (m : Memory) (t : List Byte) (s : State) : Prop where
  noError : s.err = false
  length : s.scrLen.toNat = t.length
  bytes : ∀ k < 256, s.mem.read (0x500 + k) = if k < t.length then t[k]? else m.read (0x500 + k)

/-- R213: the script of no byte. -/
theorem scriptIs_scrClear (s : State) : ∃ t, exec .scrClear s = .next t ∧ ScriptIs s.mem [] t :=
  ⟨_, rfl, rfl, rfl, fun _ _ => rfl⟩

/-- R100: loading IN leaves the script. -/
theorem ScriptIs.loaded {m : Memory} {t : List Byte} {s : State} (h : ScriptIs m t s) {d : List Byte} (hlen : d.length ≤ 256) :
    ScriptIs m t (s.loaded d) where
  noError := h.noError
  length := h.length
  bytes k hk := by
    have hw : Wrote s.mem (s.loaded d).mem .inb 0 d := wrote_setBufs s.mem .inb 0 d (by rwa [Nat.zero_add])
    rw [hw, if_neg (by simp only [Buf.base]; omega), h.bytes k hk]

/-- R210: an append that fits. -/
theorem ScriptIs.append {m : Memory} {t : List Byte} {s : State} (h : ScriptIs m t s) {i : Instr} {d : List Byte}
    (he : exec i s = s.complete (.ok (s.appendScript d))) (hfit : t.length + d.length ≤ 256) :
    ∃ u, exec i s = .next u ∧ ScriptIs m (t ++ d) u := by
  have hlen := h.length
  obtain ⟨mem, hu, hw⟩ := exec_appendScript he (by rwa [hlen])
  refine ⟨_, hu, rfl, ?_, fun k hk => ?_⟩
  · rw [List.length_append, ← hlen]
    exact Nat.mod_eq_of_lt (by omega)
  · refine (hw _).trans ?_
    rw [hlen, List.length_append]
    by_cases hold : k < t.length
    · rw [if_neg (by simp only [Buf.base]; omega), h.bytes k hk, if_pos hold, if_pos (by omega), List.getElem?_append_left hold]
    · rw [List.getElem?_append_right (by omega), h.bytes k hk, if_neg hold]
      simp only [Buf.base]
      grind

/-- R214: a push that fits, of data loaded before it. -/
theorem ScriptIs.push {m : Memory} {t : List Byte} {s : State} (h : ScriptIs m t s) {d : List Byte} (hlen : d.length ≤ 75)
    (hfit : t.length + (pushBytes d).length ≤ 256) : ∃ u, exec .scrPush (s.loaded d) = .next u ∧ ScriptIs m (t ++ pushBytes d) u := by
  have hd : d.length ≤ 256 := by omega
  have hloaded := h.loaded hd
  have hin := loaded_inLen s hd
  have hscr := hloaded.length
  refine hloaded.append ?_ hfit
  rw [exec_scrPush_fits (by omega) (by rw [pushBytes_length] at hfit; omega), loaded_input s hd]

/-- R215: an opcode that fits. -/
theorem ScriptIs.op {m : Memory} {t : List Byte} {s : State} (h : ScriptIs m t s) (b : Byte) (hfit : t.length + 1 ≤ 256) :
    ∃ u, exec (.scrOp b) s = .next u ∧ ScriptIs m (t ++ [b]) u :=
  h.append (exec_scrOp_fits b (by rwa [h.length])) hfit

/-- R211, R217: the two-key script, put together from the pieces that the appending commands add. -/
theorem multi2Script_append {pk1 pk2 : List Byte} (h1 : pk1.length = 33) (h2 : pk2.length = 33) :
    multi2Script (pk1 ++ pk2) = [] ++ pushBytes pk1 ++ [0xAC] ++ pushBytes pk2 ++ [0xAC] ++ [0x9A] := by
  rw [multi2Script, List.take_left' h1, List.drop_left' h1, List.take_of_length_le h2.le, pushBytes, pushBytes, h1, h2]
  simp [Config.opCheckSig, Config.opBoolAnd]

/-- R217: what `SCR_MULTI2` leaves of two keys that were loaded. -/
theorem scriptIs_scrMulti2 (s : State) {pk1 pk2 : List Byte} (h1 : pk1.length = 33) (h2 : pk2.length = 33)
    (hp1 : pk1[0]? = some 0x02 ∨ pk1[0]? = some 0x03) (hp2 : pk2[0]? = some 0x02 ∨ pk2[0]? = some 0x03) :
    ∃ u, exec .scrMulti2 (s.loaded (pk1 ++ pk2)) = .next u ∧ ScriptIs s.mem (multi2Script (pk1 ++ pk2)) u := by
  have hlen : (pk1 ++ pk2).length = 66 := by rw [List.length_append, h1, h2]
  have hinput := loaded_input s (m := pk1 ++ pk2) (by omega)
  have hin : (s.loaded (pk1 ++ pk2)).inLen.toNat = 66 := by rw [loaded_inLen s (by omega), hlen]
  have hbyte (k : Nat) (hk : k < 66) : (s.loaded (pk1 ++ pk2)).byteAt .inb k = ((pk1 ++ pk2)[k]?).getD 0 := by
    rw [← input_getD _ k (by omega), hinput, List.getD_eq_getElem?_getD]
  have hkey {o : Option Byte} (ho : o = some 0x02 ∨ o = some 0x03) : keyPrefixOk (o.getD 0) = true := by
    obtain rfl | rfl := ho <;> rfl
  obtain ⟨mem, hu, hw⟩ := exec_scrMulti2_ok hin
    (by rw [hbyte 0 (by omega), List.getElem?_append_left (by omega)]; exact hkey hp1)
    (by rw [hbyte 33 (by omega), List.getElem?_append_right (by omega), h1]; exact hkey hp2)
  rw [hinput] at hw
  have hscript := multi2Script_length hlen
  refine ⟨_, hu, rfl, hscript.symm, fun k hk => (hw _).trans ?_⟩
  have hload : Wrote s.mem (s.loaded (pk1 ++ pk2)).mem .inb 0 (pk1 ++ pk2) :=
    wrote_setBufs s.mem .inb 0 (pk1 ++ pk2) (by rw [hlen]; decide)
  rw [hload, hscript, hlen]
  simp only [Buf.base]
  grind

/-- Settles O58: both leave the script of the two keys, and past it SCR as it was. -/
theorem twoKeyScriptIsTheSerializedSequence : Obligations.TwoKeyScriptIsTheSerializedSequence := by
  intro s pk1 pk2 h1 h2 hp1 hp2
  obtain ⟨s1, e1, i1⟩ := scriptIs_scrClear s
  obtain ⟨s2, e2, i2⟩ := i1.push (d := pk1) (by omega) (by simp [h1])
  obtain ⟨s3, e3, i3⟩ := i2.op 0xAC (by simp [h1])
  obtain ⟨s4, e4, i4⟩ := i3.push (d := pk2) (by omega) (by simp [h1, h2])
  obtain ⟨s5, e5, i5⟩ := i4.op 0xAC (by simp [h1, h2])
  obtain ⟨t, e6, ht⟩ := i5.op 0x9A (by simp [h1, h2])
  obtain ⟨u, eu, hu⟩ := scriptIs_scrMulti2 s h1 h2 hp1 hp2
  rw [← multi2Script_append h1 h2] at ht
  have hscript := multi2Script_length (m := pk1 ++ pk2) (by rw [List.length_append, h1, h2])
  have hlength {v : State} (hv : ScriptIs s.mem (multi2Script (pk1 ++ pk2)) v) : v.scrLen = 71 :=
    BitVec.eq_of_toNat_eq (hv.length.trans hscript)
  refine ⟨t, u, ?_, ?_, ht.noError, hu.noError, hlength ht, hlength hu, fun k hk => (ht.bytes k hk).trans (hu.bytes k hk).symm⟩
  · rw [commands_cons e1, commands_cons_loaded e2, commands_cons e3, commands_cons_loaded e4, commands_cons e5, commands_cons e6,
      State.commands]
  · rw [commands_cons_loaded eu, State.commands]

/-! ### Transfer between buffers -/

/-- Settles O59: IN takes OUT's bytes as they stand. -/
theorem xferCopiesOutToIn : Obligations.XferCopiesOutToIn := by
  intro s
  refine ⟨fun hwf hlen => ?copies, fun hlen => ?refuses⟩
  case copies =>
    refine ⟨_, congrArg s.complete (if_neg (Nat.not_lt.2 hlen)), fun a => ?_⟩
    refine (Memory.read_setBufs s.mem hwf .inb 0 ((List.range s.outLen.toNat).map fun i => s.mem.read (Buf.out.base + i))
      (by simpa [Buf.cap, Config.inCap] using hlen) a).trans ?_
    simp only [List.length_map, List.length_range, Buf.base, Nat.add_zero]
    by_cases ha : 0x100 ≤ a ∧ a < 0x100 + s.outLen.toNat
    · rw [if_pos ha, if_pos ha, List.getD_eq_getElem _ _ (by simp; omega), List.getElem_map, List.getElem_range]
      exact congrArg s.mem.read (by omega)
    · rw [if_neg ha, if_neg ha]
  case refuses => exact failsWith_of _ s _ (congrArg s.complete (if_pos hlen))

/-- Settles O60: IN takes the byte and the operand. -/
theorem prependPutsAByteInFront : Obligations.PrependPutsAByteInFront := by
  intro s b
  refine ⟨fun hlen => ?front, fun hlen => ?refuses⟩
  case front =>
    refine ⟨s.mem.setBufs .inb 0 ((b :: s.input).map some), ?_, wrote_setBufs _ _ _ _ ?_⟩
    · rw [exec_of_withIn (i := .prepend b) rfl (by rw [State.InOk]; exact hlen.le), if_neg (by rw [input_length]; exact Nat.not_le.2 hlen),
        input_length]
      rfl
    · rw [List.length_cons, input_length]
      exact Nat.zero_add _ ▸ hlen
  case refuses =>
    by_cases hin : s.InOk
    · exact failsWith_of_withIn (i := .prepend b) rfl hin (if_pos (by rwa [input_length]))
    · exact failsWith_of _ s _ (congrArg s.complete (withIn_error s hin _))

end Sys2Proof.Machine
end

section
/-! SUPPORT. Streaming a padded message through a hash core (40_hash.md section 5). -/

namespace Sys2Proof.Machine

open Sys2Proof

/-- R114: the blocks of a padded string have 64 bytes. -/
theorem length_of_mem_blocks {p b : List Byte} (hb : b ∈ blocks p) : b.length = 64 := by
  obtain ⟨i, hi, rfl⟩ := List.mem_map.1 hb
  rw [List.mem_range] at hi
  rw [List.length_take, List.length_drop]
  omega

/-- A command that takes each block into a chaining value takes them all in, one after another. -/
theorem commands_blocks {α : Type} {i : Instr} (chain : State → α) (compress : α → List Byte → α)
    (hi : ∀ s : State, s.inLen.toNat = 64 → ∃ t, exec i s = .next t ∧ chain t = compress (chain s) s.input)
    (hload : ∀ (s : State) (b : List Byte), chain (s.loaded b) = chain s) (bs : List (List Byte)) (hbs : ∀ b ∈ bs, b.length = 64) (s : State) :
    ∃ t, s.commands (bs.map fun b => (some b, i)) = .next t ∧ chain t = bs.foldl compress (chain s) := by
  induction bs generalizing s with
  | nil => exact ⟨s, rfl, rfl⟩
  | cons b bs ih =>
    have hlen : b.length = 64 := hbs b List.mem_cons_self
    obtain ⟨u, hu, hchain⟩ := hi (s.loaded b) (by rw [loaded_inLen s (by omega), hlen])
    rw [loaded_input s (by omega), hload] at hchain
    obtain ⟨t, ht, hfold⟩ := ih (fun b' hb' => hbs b' (List.mem_cons_of_mem b hb')) u
    exact ⟨t, by rw [List.map_cons, commands_cons_loaded hu, ht], by rw [List.foldl_cons, hfold, hchain]⟩

/-- Settles O41: the chaining registers are the fold that the one-shot hash takes the digest of. -/
theorem streamingGivesTheOneShotHash : Obligations.StreamingGivesTheOneShotHash := by
  intro s m
  constructor
  · have hblock (s : State) (hlen : s.inLen.toNat = 64) : ∃ t, exec .shaBlock s = .next t ∧ t.shaH = shaCompress s.shaH s.input := by
      obtain ⟨hblock, -⟩ := blockCommandsCompressOneBlock s
      obtain ⟨hexec, -⟩ := hblock hlen
      exact ⟨_, hexec, rfl⟩
    obtain ⟨hinit, -⟩ := initCommandsLoadTheInitialValues s
    obtain ⟨t, ht, hchain⟩ := commands_blocks State.shaH shaCompress hblock (fun _ _ => rfl) (blocks (shaPad m))
      (fun _ => length_of_mem_blocks) _
    exact ⟨t, by rw [commands_cons hinit, ht], by rw [hchain]; rfl⟩
  · have hblock (s : State) (hlen : s.inLen.toNat = 64) : ∃ t, exec .rmdBlock s = .next t ∧ t.rmdH = rmdCompress s.rmdH s.input := by
      obtain ⟨hblock, -⟩ := blockCommandsCompressOneBlock s
      obtain ⟨-, hexec⟩ := hblock hlen
      exact ⟨_, hexec, rfl⟩
    obtain ⟨-, hinit⟩ := initCommandsLoadTheInitialValues s
    obtain ⟨t, ht, hchain⟩ := commands_blocks State.rmdH rmdCompress hblock (fun _ _ => rfl) (blocks (rmdPad m))
      (fun _ => length_of_mem_blocks) _
    exact ⟨t, by rw [commands_cons hinit, ht], by rw [hchain]; rfl⟩

end Sys2Proof.Machine
end

section
/-! SUPPORT. The pseudo-instruction `RUN`: issue, the polls of its `WAIT`, and the completion (30_encoding.md R100; 70_reset_and_hazards.md R283). -/

namespace Sys2Proof.Machine

open Sys2Proof

/-! ### A command sees nothing of its own issue -/

/-- The state once the word `c` has been issued and its completion is due, but for CMD: the bits and the latch that the completion sets again. -/
def State.issuedDue (s : State) (c : Word) : State := { s with pend := some c, done := false, err := false, errcode := 0, countdown := 0 }

/-- No update reads or writes them. -/
theorem applyAll_issuedDue (s : State) (c : Word) (u : List Update) : (s.issuedDue c).applyAll u = (s.applyAll u).issuedDue c := by
  induction u generalizing s with
  | nil => rfl
  | cons x u ih =>
    have hx : (s.issuedDue c).apply x = (s.apply x).issuedDue c := by cases x <;> rfl
    have ih := ih (s.apply x)
    simpa only [State.applyAll, List.foldl_cons, hx] using ih

/-- R244: a completion step sets them all. -/
theorem completed_issuedDue (s : State) (c : Word) (r : Except ErrCode (List Update)) : (s.issuedDue c).completed r = s.completed r := by
  cases r with
  | error e => rfl
  | ok u =>
    rw [completed_ok, completed_ok, applyAll_issuedDue]
    rfl

/-- R14: no command's answer depends on them. -/
theorem exec_issuedDue (i : Instr) (s : State) (c : Word) : exec i (s.issuedDue c) = exec i s := by
  have hanswer : ∃ r, exec i s = s.complete r ∧ exec i (s.issuedDue c) = (s.issuedDue c).complete r := by cases i <;> exact ⟨_, rfl, rfl⟩
  obtain ⟨r, hs, hd⟩ := hanswer
  rw [hs, hd, State.complete, State.complete, completed_issuedDue]

/-! ### The polls -/

/-- R283: a poll while a command runs; the `WAIT` goes on. -/
theorem hostOp_wait_busy (s : State) (hr : s.resetIn = false) (hb : s.busy = true) : s.hostOp .wait =
    { s with answers := .data s.statusWord :: s.answers, draws := s.draws + 1, host := .wait :: s.host } := by
  obtain ⟨hbit, -⟩ := statusWord_bits s
  rw [State.hostOp, reads_status s hr, waitOver, hbit, hb]
  rfl

/-- R283: a poll while none runs; it is the last. -/
theorem hostOp_wait_idle (s : State) (hr : s.resetIn = false) (hb : s.busy = false) : s.hostOp .wait =
    { s with answers := .data s.statusWord :: s.answers, draws := s.draws + 1 } := by
  obtain ⟨hbit, -⟩ := statusWord_bits s
  rw [State.hostOp, reads_status s hr, waitOver, hbit, hb]
  rfl

/-- R283: a step that polls and brings the completion nearer. -/
theorem step_wait {s : State} {c : Word} {n : Nat} {rest : List HostOp} (hr : s.resetIn = false) (hp : s.pend = some c)
    (hn : s.countdown = n + 1) (hh : s.host = .wait :: rest) : step s =
      .next { s with answers := .data s.statusWord :: s.answers, draws := s.draws + 1, countdown := n, host := .wait :: rest } := by
  have hb : s.busy = true := by rw [State.busy, hp]; rfl
  calc step s = .next (State.hostStep { s with countdown := n }) := step_waiting s c n hr hp hn
    _ = .next (State.hostOp { s with countdown := n, host := rest } .wait) := congrArg _ (hostStep_cons (s := { s with countdown := n }) hh)
    _ = _ := congrArg _ (hostOp_wait_busy { s with countdown := n, host := rest } hr hb)

/-- R283: the polls go on until the completion is due, and leave all but the draw number and the answers. -/
theorem run_wait (n : Nat) (s : State) (c : Word) (rest : List HostOp) (hr : s.resetIn = false) (hp : s.pend = some c)
    (hn : s.countdown = n) (hh : s.host = .wait :: rest) :
    ∃ d ans, Sys2Proof.core.run n s = .next { s with countdown := 0, draws := d, answers := ans, host := .wait :: rest } := by
  induction n generalizing s with
  | zero =>
    have hs : s = { s with countdown := 0, host := .wait :: rest } := by rw [← hn, ← hh]
    exact ⟨s.draws, s.answers, congrArg _ hs⟩
  | succ n ih =>
    obtain ⟨d, ans, hrun⟩ := ih
      { s with answers := .data s.statusWord :: s.answers, draws := s.draws + 1, countdown := n, host := .wait :: rest } hr hp rfl rfl
    exact ⟨d, ans, (run_succ s _ n (step_wait hr hp hn hh)).trans hrun⟩

/-! ### The whole of `RUN` -/

/-- R244: what a completion step leaves of the reset input and the host's ops. -/
theorem completed_outside (s : State) (r : Except ErrCode (List Update)) :
    (s.completed r).resetIn = s.resetIn ∧ (s.completed r).host = s.host := by
  cases r with
  | error e => exact ⟨rfl, rfl⟩
  | ok u =>
    obtain ⟨-, -, -, hreset, -, hhost, -⟩ := applyAll_frame s u
    exact ⟨hreset, hhost⟩

/-- R247: the completion step of an issued word, as the meaning of the word on the state without its issue. -/
theorem engineStep_issuedDue (s : State) (c : Word) : ∃ r, (s.issuedDue c).engineStep c = .next (s.completed r) ∧
    (∀ i, decode c = .ok i → exec i s = .next (s.completed r)) ∧
    (∀ e, decode c = .error e → s.completed r = s.failed .illegalCommand) := by
  cases hd : decode c with
  | error e => exact ⟨.error .illegalCommand, engineStep_rejected _ c e hd, nofun, fun _ _ => completed_error s _⟩
  | ok i =>
    obtain ⟨r, hexec⟩ := exec_completed i s
    refine ⟨r, (engineStep_decoded hd _).trans ((exec_issuedDue i s c).trans hexec), fun j hj => ?_, nofun⟩
    obtain rfl := Except.ok.inj hj
    exact hexec

/-- R243: the step of a write of CMD while no command runs. -/
theorem step_issue {s : State} {c : Word} {rest : List HostOp} (hr : s.resetIn = false) (hp : s.pend = none)
    (hh : s.host = wr 0x010 c :: rest) :
    step s = .next { s.issue c with host := rest, answers := .ok :: s.answers, draws := s.draws + 1 } := by
  rw [step_idle s hp, hostStep_cons hh]
  exact congrArg _ (access_cmd_idle { s with host := rest } c hr (by rw [State.busy, hp]; rfl))

/-- R283: the step that ends a `WAIT`. -/
theorem step_wait_idle {s : State} {rest : List HostOp} (hr : s.resetIn = false) (hp : s.pend = none) (hh : s.host = .wait :: rest) :
    step s = .next { s with answers := .data s.statusWord :: s.answers, draws := s.draws + 1, host := rest } := by
  rw [step_idle s hp, hostStep_cons hh]
  exact congrArg _ (hostOp_wait_idle { s with host := rest } hr (by rw [State.busy, hp]; rfl))

/-- R243, R283: the issue and the polls bring `RUN` to the step before the completion. -/
theorem run_issue {s : State} {c : Word} {rest : List HostOp} (hr : s.resetIn = false) (hp : s.pend = none)
    (hh : s.host = runWord c ++ rest) : ∃ k d ans,
      Sys2Proof.core.run k s = .next (State.issuedDue { s with cmd := c, draws := d, host := .wait :: rest, answers := ans } c) := by
  obtain ⟨d, ans, hpolls⟩ := run_wait (Config.latencyTail s.draws)
    { s.issue c with host := .wait :: rest, answers := .ok :: s.answers, draws := s.draws + 1 } c rest hr rfl rfl rfl
  exact ⟨Config.latencyTail s.draws + 1, d, ans, (run_succ s _ _ (step_issue hr hp hh)).trans hpolls⟩

/-- R244, R283: the completion and the poll after it end `RUN`. -/
theorem run_completion {u : State} {c : Word} {r : Except ErrCode (List Update)} {rest : List HostOp}
    (hstep : (u.issuedDue c).engineStep c = .next (u.completed r)) (hr : u.resetIn = false) (hh : u.host = .wait :: rest) :
    ∃ t, Sys2Proof.core.run 2 (u.issuedDue c) = .next t ∧ t.block = (u.completed r).block ∧ t.host = rest ∧ t.busy = false ∧
      t.done = true ∧ runCode t.answers = some t.errcode := by
  obtain ⟨hpend, hdone, -⟩ := completed_status u r
  obtain ⟨hreset, hhost⟩ := completed_outside u r
  obtain ⟨-, -, -, -, -, hcode, -⟩ := statusWord_bits (u.completed r)
  have hdue : step (u.issuedDue c) = .next (u.completed r) := (step_due (u.issuedDue c) c hr rfl rfl).trans hstep
  have hpoll := step_wait_idle (hreset.trans hr) hpend (hhost.trans hh)
  exact ⟨_, (run_succ _ _ 1 hdue).trans (run_succ _ _ 0 hpoll), rfl, rfl, congrArg Option.isSome hpend, hdone, congrArg some hcode⟩

/-- Settles O36: the issue, the polls before the completion, the completion, and the poll after it. -/
theorem runPseudoInstructionRunsTheCommand : Obligations.RunPseudoInstructionRunsTheCommand := by
  intro s c rest hr hp hh
  obtain ⟨k, d, ans, hissue⟩ := run_issue hr hp hh
  obtain ⟨r, hstep, hok, hbad⟩ := engineStep_issuedDue { s with cmd := c, draws := d, host := .wait :: rest, answers := ans } c
  obtain ⟨t, hend, ht⟩ := run_completion hstep hr rfl
  exact ⟨k + 2, d, ans, t, _, _, (run_add s _ k 2 hissue).trans hend, rfl, hok, hbad, ht⟩

end Sys2Proof.Machine
end

section
/-! SUPPORT. The pseudo-instructions that move bytes between the host and the buffers (30_encoding.md R100; 20_memory.md R67, R68). -/

namespace Sys2Proof.Machine

open Sys2Proof

/-! ### The bytes that writes of words leave -/

/-- R61: bytes set beyond a buffer's capacity have no part. -/
theorem Memory.setBufs_take (m : Memory) (b : Buf) (i : Nat) (cs : List (Option Byte)) :
    m.setBufs b i cs = m.setBufs b i (cs.take (b.cap - i)) := by
  induction cs generalizing m i with
  | nil => rw [List.take_nil]
  | cons c cs ih =>
    rw [Memory.setBufs, ih]
    by_cases hi : i < b.cap
    · rw [show b.cap - i = (b.cap - (i + 1)) + 1 by omega, List.take_succ_cons, Memory.setBufs]
    · rw [Memory.setBuf, if_neg hi, show b.cap - (i + 1) = 0 by omega, show b.cap - i = 0 by omega, List.take_zero, List.take_zero,
        Memory.setBufs, Memory.setBufs]

/-- R67, R68: what an address reads as after a word's bytes are set in a buffer. -/
theorem Memory.read_setWord (m : Memory) (b : Buf) (k : Nat) (v : Word) (a : Nat) :
    Memory.read (m.setBufs b (4 * k) ((le32bytes v).map some)) a =
      if b.base + 4 * k ≤ a ∧ a < b.base + 4 * k + 4 ∧ a < b.base + b.cap then (le32bytes v)[a - (b.base + 4 * k)]? else m.read a := by
  have hlen : ((le32bytes v).take (b.cap - 4 * k)).length = min (b.cap - 4 * k) 4 := List.length_take
  rw [Memory.setBufs_take, ← List.map_take]
  by_cases hk : 4 * k < b.cap
  · rw [wrote_setBufs m b (4 * k) _ (by omega), hlen, List.getElem?_take]
    grind
  · rw [show b.cap - 4 * k = 0 by omega, List.take_zero, List.map_nil, Memory.setBufs, if_neg (by omega)]

/-- R100: memory after the words of `t` with these numbers were written to a buffer. -/
def storeWords (b : Buf) (t : List Byte) (ks : List Nat) (m : Memory) : Memory :=
  ks.foldl (fun m k => m.setBufs b (4 * k) ((le32bytes (le32At t k)).map some)) m

/-- R67, R100: the first `n` words of a padded string leave its bytes, as far as the buffer goes. -/
theorem read_storeWords (b : Buf) (t : List Byte) (n : Nat) (m : Memory) (a : Nat) :
    (storeWords b t (List.range n) m).read a =
      if b.base ≤ a ∧ a < b.base + 4 * n ∧ a < b.base + b.cap then some (t.getD (a - b.base) 0) else m.read a := by
  induction n with
  | zero => rw [if_neg (by omega)]; rfl
  | succ n ih =>
    have hword : ∀ j < 4, (le32bytes (le32At t n))[j]? = some (t.getD (4 * n + j) 0) := by
      intro j hj
      rw [le32At, le32bytes_le32]
      obtain rfl | rfl | rfl | rfl : j = 0 ∨ j = 1 ∨ j = 2 ∨ j = 3 := by omega
      all_goals rfl
    rw [storeWords, List.range_succ, List.foldl_concat, Memory.read_setWord]
    by_cases hnew : b.base + 4 * n ≤ a ∧ a < b.base + 4 * n + 4 ∧ a < b.base + b.cap
    · rw [if_pos hnew, if_pos (by omega), hword _ (by omega)]
      exact congrArg (fun i => some (t.getD i 0)) (by omega)
    · rw [if_neg hnew]
      refine ih.trans (if_congr ?_ rfl rfl)
      omega

/-! ### The steps of `LOADIN` and `LOADHRP` -/

/-- R67: the step of a write of a word to IN or HRP while no command runs. -/
theorem step_storeWord {s : State} {b : Buf} (ho : b ≠ .out) (hc : b ≠ .scr) {k : Nat} {v : Word} {rest : List HostOp}
    (hr : s.resetIn = false) (hp : s.pend = none) (hk : 4 * k < b.cap) (hh : s.host = wr (b.base + 4 * k) v :: rest) :
    step s = .next
      { s with mem := s.mem.setBufs b (4 * k) ((le32bytes v).map some), host := rest, answers := .ok :: s.answers, draws := s.draws + 1 } := by
  rw [step_idle s hp, hostStep_cons hh]
  exact congrArg _ (access_storeWord { s with host := rest } b ho hc k v hr (by rw [State.busy, hp]; rfl) hk)

/-- R100: the writes of a string's words, a step each. -/
theorem run_writeWords {b : Buf} (ho : b ≠ .out) (hc : b ≠ .scr) (t : List Byte) (rest : List HostOp) (ks : List Nat)
    (hks : ∀ k ∈ ks, 4 * k < b.cap) (s : State) (hr : s.resetIn = false) (hp : s.pend = none)
    (hh : s.host = ks.map (fun k => wr (b.base + 4 * k) (le32At t k)) ++ rest) :
    ∃ d ans, Sys2Proof.core.run ks.length s =
      .next { s with mem := storeWords b t ks s.mem, host := rest, draws := d, answers := ans } := by
  induction ks generalizing s with
  | nil => exact ⟨s.draws, s.answers, by subst hh; rfl⟩
  | cons k ks ih =>
    have hstep := step_storeWord ho hc hr hp (hks k List.mem_cons_self) hh
    obtain ⟨d, ans, hrun⟩ := ih (fun j hj => hks j (List.mem_cons_of_mem k hj))
      { s with mem := s.mem.setBufs b (4 * k) ((le32bytes (le32At t k)).map some),
               host := ks.map (fun k => wr (b.base + 4 * k) (le32At t k)) ++ rest, answers := .ok :: s.answers, draws := s.draws + 1 }
      hr hp rfl
    exact ⟨d, ans, (run_succ s _ _ hstep).trans hrun⟩

/-- R100: the step of the write of a length, which ends `LOADIN`. -/
theorem step_storeInLen {s : State} {n : Nat} {rest : List HostOp} (hr : s.resetIn = false) (hp : s.pend = none)
    (hh : s.host = wr 0x014 (BitVec.ofNat 32 n) :: rest) :
    step s = .next { s with inLen := BitVec.ofNat 16 n, host := rest, answers := .ok :: s.answers, draws := s.draws + 1 } := by
  obtain ⟨haccess, -⟩ := lengthRegistersTakeTheirLowBits { s with host := rest } (BitVec.ofNat 32 n) hr (by rw [State.busy, hp]; rfl)
  rw [BitVec.setWidth_ofNat_of_le (by decide)] at haccess
  rw [step_idle s hp, hostStep_cons hh]
  exact congrArg _ haccess

/-- R100: the step of the write of a length, which ends `LOADHRP`. -/
theorem step_storeHrpLen {s : State} {n : Nat} {rest : List HostOp} (hr : s.resetIn = false) (hp : s.pend = none)
    (hh : s.host = wr 0x01C (BitVec.ofNat 32 n) :: rest) :
    step s = .next { s with hrpLen := BitVec.ofNat 8 n, host := rest, answers := .ok :: s.answers, draws := s.draws + 1 } := by
  obtain ⟨-, haccess⟩ := lengthRegistersTakeTheirLowBits { s with host := rest } (BitVec.ofNat 32 n) hr (by rw [State.busy, hp]; rfl)
  rw [BitVec.setWidth_ofNat_of_le (by decide)] at haccess
  rw [step_idle s hp, hostStep_cons hh]
  exact congrArg _ haccess

/-- R100: a string that was written stands in the buffer. -/
theorem read_loaded {b : Buf} {t : List Byte} (hlen : t.length ≤ b.cap) (m : Memory) {k : Nat} (hk : k < t.length) :
    (storeWords b t (List.range ((t.length + 3) / 4)) m).read (b.base + k) = t[k]? := by
  rw [read_storeWords, if_pos (by omega), Nat.add_sub_cancel_left, List.getD_eq_getElem _ _ hk, List.getElem?_eq_getElem hk]

/-- R100: `LOADIN` and `LOADHRP` write the words of a string that the buffer holds, and then take the step of their last write. -/
theorem run_load {b : Buf} (ho : b ≠ .out) (hc : b ≠ .scr) {m : List Byte} {op : HostOp} {rest : List HostOp} {s : State}
    (hlen : m.length ≤ b.cap) (hr : s.resetIn = false) (hp : s.pend = none) (hh : s.host = writeWords b m ++ [op] ++ rest) :
    ∃ d ans, ∀ t, step { s with mem := storeWords b m (List.range ((m.length + 3) / 4)) s.mem, host := op :: rest, draws := d,
                                answers := ans } = .next t →
      Sys2Proof.core.run (writeWords b m ++ [op]).length s = .next t := by
  rw [List.append_assoc] at hh
  obtain ⟨d, ans, hrun⟩ := run_writeWords ho hc m (op :: rest) (List.range ((m.length + 3) / 4))
    (fun k hk => by rw [List.mem_range] at hk; omega) s hr hp hh
  rw [List.length_range] at hrun
  refine ⟨d, ans, fun t ht => ?_⟩
  rw [List.length_append, writeWords, List.length_map, List.length_range]
  exact (run_add s _ _ 1 hrun).trans (run_succ _ _ 0 ht)

/-- R100: `LOADIN` of a string that IN holds. -/
theorem run_loadIn {s : State} {m : List Byte} {rest : List HostOp} (hr : s.resetIn = false) (hp : s.pend = none) (hlen : m.length ≤ 256)
    (hh : s.host = loadIn m ++ rest) : ∃ d ans, Sys2Proof.core.run (loadIn m).length s = .next
      { s with mem := storeWords .inb m (List.range ((m.length + 3) / 4)) s.mem, inLen := BitVec.ofNat 16 m.length, host := rest,
               draws := d, answers := ans } := by
  obtain ⟨d, ans, hrun⟩ := run_load (by decide) (by decide) hlen hr hp hh
  exact ⟨_, _, hrun _ (step_storeInLen hr hp rfl)⟩

/-- R100: `LOADHRP` of a string that HRP holds. -/
theorem run_loadHrp {s : State} {m : List Byte} {rest : List HostOp} (hr : s.resetIn = false) (hp : s.pend = none) (hlen : m.length ≤ 83)
    (hh : s.host = loadHrp m ++ rest) : ∃ d ans, Sys2Proof.core.run (loadHrp m).length s = .next
      { s with mem := storeWords .hrp m (List.range ((m.length + 3) / 4)) s.mem, hrpLen := BitVec.ofNat 8 m.length, host := rest,
               draws := d, answers := ans } := by
  obtain ⟨d, ans, hrun⟩ := run_load (by decide) (by decide) hlen hr hp hh
  exact ⟨_, _, hrun _ (step_storeHrpLen hr hp rfl)⟩

/-! ### The steps of `RDOUT` -/

/-- R33, R67: the word is one that a read of word `k` of OUT gives, an unspecified byte drawn at some draw number. -/
def SeenInOut (s : State) (k : Nat) (w : Word) : Prop := ∃ d, w = State.bufWord { s with draws := d } .out k

/-- R67: where bytes of OUT are known, a word that a read gives has them. -/
theorem SeenInOut.byte {s : State} {k : Nat} {w : Word} (h : SeenInOut s k w) {j : Nat} (hj : j < 4) (hcap : 4 * k + j < 512) {v : Byte}
    (hv : s.mem.read (0x200 + (4 * k + j)) = some v) : (le32bytes w)[j]? = some v := by
  obtain ⟨d, rfl⟩ := h
  have hlane := lane_known { s with draws := d } .out (4 * k + j) v hcap hv
  rw [State.bufWord, le32bytes_le32, ← hlane]
  obtain rfl | rfl | rfl | rfl : j = 0 ∨ j = 1 ∨ j = 2 ∨ j = 3 := by omega
  all_goals rfl

/-- R67: the step of a read of a word of OUT while no command runs. -/
theorem step_readOut {s : State} {k : Nat} {rest : List HostOp} (hr : s.resetIn = false) (hp : s.pend = none) (hk : 4 * k < 512)
    (hh : s.host = rd (0x200 + 4 * k) :: rest) :
    step s = .next { s with host := rest, answers := .data (s.bufWord .out k) :: s.answers, draws := s.draws + 1 } := by
  rw [step_idle s hp, hostStep_cons hh]
  exact congrArg _ (reads_value_idle { s with host := rest } _ _ hr (by rw [State.busy, hp]; rfl) (locate_buf .out k hk))

/-- R100: the reads of words of OUT, a step each. -/
theorem run_readOut (rest : List HostOp) (ks : List Nat) (hks : ∀ k ∈ ks, 4 * k < 512) (s : State) (hr : s.resetIn = false)
    (hp : s.pend = none) (hh : s.host = ks.map (fun k => rd (0x200 + 4 * k)) ++ rest) :
    ∃ d ws, List.Forall₂ (SeenInOut s) ks ws ∧ Sys2Proof.core.run ks.length s =
      .next { s with host := rest, draws := d, answers := (ws.map Answer.data).reverse ++ s.answers } := by
  induction ks generalizing s with
  | nil => exact ⟨s.draws, [], .nil, by subst hh; rfl⟩
  | cons k ks ih =>
    have hstep := step_readOut hr hp (hks k List.mem_cons_self) hh
    obtain ⟨d, ws, hseen, hrun⟩ := ih (fun j hj => hks j (List.mem_cons_of_mem k hj))
      { s with host := ks.map (fun k => rd (0x200 + 4 * k)) ++ rest, answers := .data (s.bufWord .out k) :: s.answers, draws := s.draws + 1 }
      hr hp rfl
    refine ⟨d, s.bufWord .out k :: ws, .cons ⟨s.draws, rfl⟩ hseen, (run_succ s _ _ hstep).trans (hrun.trans ?_)⟩
    rw [List.map_cons, List.reverse_cons, List.append_assoc]
    rfl

/-- R67: the string that the bytes of words begin with. -/
theorem take_flatMap_le32bytes (ws : List Word) (m : List Byte) (hlen : m.length ≤ 4 * ws.length)
    (hbytes : ∀ k (hk : k < ws.length), ∀ j < 4, 4 * k + j < m.length → (le32bytes ws[k])[j]? = m[4 * k + j]?) :
    (ws.flatMap le32bytes).take m.length = m := by
  induction ws generalizing m with
  | nil => exact (List.length_eq_zero_iff.1 (Nat.le_zero.1 hlen)) ▸ rfl
  | cons w ws ih =>
    rw [List.length_cons] at hlen
    have hfirst : (le32bytes w).take m.length = m.take 4 := by
      refine List.ext_getElem? fun j => ?_
      have hw : (le32bytes w).length = 4 := rfl
      have hj := hbytes 0 (Nat.zero_lt_succ _) j
      rw [Nat.mul_zero, Nat.zero_add, List.getElem_cons_zero] at hj
      grind
    have hrest : (ws.flatMap le32bytes).take (m.length - 4) = m.drop 4 := by
      rw [← List.length_drop]
      refine ih (m.drop 4) (by rw [List.length_drop]; omega) fun k hk j hj hkj => ?_
      rw [List.length_drop] at hkj
      have hbyte := hbytes (k + 1) (Nat.succ_lt_succ hk) j hj (by omega)
      rw [List.getElem_cons_succ] at hbyte
      rw [List.getElem?_drop, hbyte]
      exact congrArg (m[·]?) (by omega)
    rw [List.flatMap_cons, List.take_append, hfirst, show (le32bytes w).length = 4 from rfl, hrest, List.take_append_drop]

/-- R26: OUT_LEN reads as its value. -/
theorem outLen_word_toNat (s : State) : (s.outLen.setWidth 32).toNat = s.outLen.toNat := by
  rw [BitVec.toNat_setWidth]
  exact Nat.mod_eq_of_lt (by omega)

/-- R67, R100: the string that the reads of `RDOUT` give. -/
theorem rdOutResult_of_seen {s : State} {m : List Byte} {ws : List Word} (hcap : m.length ≤ 512) (hlen : m.length = s.outLen.toNat)
    (hm : ∀ k, k < m.length → s.mem.read (0x200 + k) = m[k]?)
    (hseen : List.Forall₂ (SeenInOut s) (List.range ((m.length + 3) / 4)) ws) :
    rdOutResult (.data (s.outLen.setWidth 32) :: ws.map .data) = some m := by
  have hws : ws.length = (m.length + 3) / 4 := by rw [← hseen.length_eq, List.length_range]
  have hbytes (k : Nat) (hk : k < ws.length) (j : Nat) (hj : j < 4) (hkj : 4 * k + j < m.length) :
      (le32bytes ws[k])[j]? = m[4 * k + j]? := by
    have hword : SeenInOut s k ws[k] := by simpa using hseen.get (i := k) (by rw [List.length_range]; omega) hk
    rw [List.getElem?_eq_getElem hkj]
    exact hword.byte hj (by omega) ((hm _ hkj).trans (List.getElem?_eq_getElem hkj))
  have htake := take_flatMap_le32bytes ws m (by omega) hbytes
  rw [rdOutResult, unpack_data, Option.map_some, outLen_word_toNat, ← hlen, htake]

/-- R100: the step of the read of OUT_LEN, which begins `RDOUT`. -/
theorem step_rdOut {s : State} {rest : List HostOp} (hr : s.resetIn = false) (hp : s.pend = none) (hh : s.host = .rdOut :: rest) :
    step s = .next
      { s with host := outReads s.outLen.toNat ++ rest, answers := .data (s.outLen.setWidth 32) :: s.answers, draws := s.draws + 1 } := by
  have hread : Reads { s with host := rest } 0x018 (s.outLen.setWidth 32) :=
    reads_value_idle { s with host := rest } 0x018 .outLen hr (by rw [State.busy, hp]; rfl) (by decide)
  rw [step_idle s hp, hostStep_cons hh, State.hostOp, hread, ← outLen_word_toNat]
  rfl

/-- R100: `RDOUT`. -/
theorem run_rdOut {s : State} {rest : List HostOp} (hr : s.resetIn = false) (hp : s.pend = none) (hlen : s.outLen.toNat ≤ 512)
    (hh : s.host = .rdOut :: rest) : ∃ d ws, List.Forall₂ (SeenInOut s) (List.range ((s.outLen.toNat + 3) / 4)) ws ∧
      Sys2Proof.core.run (1 + (s.outLen.toNat + 3) / 4) s = .next
        { s with draws := d, host := rest, answers := (Answer.data (s.outLen.setWidth 32) :: ws.map Answer.data).reverse ++ s.answers } := by
  obtain ⟨d, ws, hseen, hrun⟩ := run_readOut rest (List.range ((s.outLen.toNat + 3) / 4)) (fun k hk => by rw [List.mem_range] at hk; omega)
    { s with host := outReads s.outLen.toNat ++ rest, answers := .data (s.outLen.setWidth 32) :: s.answers, draws := s.draws + 1 } hr hp rfl
  rw [List.length_range] at hrun
  refine ⟨d, ws, hseen, ?_⟩
  rw [Nat.add_comm, List.reverse_cons, List.append_assoc]
  exact (run_succ s _ _ (step_rdOut hr hp hh)).trans hrun

/-- Settles O34: the words of the string and its length, and the reads of OUT_LEN and of its words. -/
theorem hostTransfersMoveTheirBytes : Obligations.HostTransfersMoveTheirBytes := by
  intro s m rest hr hp
  refine ⟨fun hlen hh => ?loadIn, fun hlen hh => ?loadHrp, fun hcap hlen hm hh => ?rdOut⟩
  case loadIn =>
    obtain ⟨d, ans, hrun⟩ := run_loadIn hr hp hlen hh
    refine ⟨_, hrun, rfl, fun k hk => read_loaded hlen s.mem hk, fun a ha => ?_⟩
    exact (read_storeWords .inb m _ s.mem a).trans (if_neg (by simp only [Buf.base]; omega))
  case loadHrp =>
    obtain ⟨d, ans, hrun⟩ := run_loadHrp hr hp hlen hh
    refine ⟨_, hrun, rfl, fun k hk => read_loaded hlen s.mem hk, fun a ha => ?_⟩
    exact (read_storeWords .hrp m _ s.mem a).trans (if_neg (by simp only [Buf.base, Buf.cap, Config.hrpCap]; omega))
  case rdOut =>
    obtain ⟨d, ws, hseen, hrun⟩ := run_rdOut hr hp (hlen ▸ hcap) hh
    rw [← hlen] at hseen hrun
    exact ⟨_, _, hrun, rfl, rdOutResult_of_seen hcap hlen hm hseen⟩

end Sys2Proof.Machine
end
